-- ==== Sys2Proof/Word.lean ====
section
/-! DEFINITION. The plain value types of the serial-transmit block: bit vectors of the widths the spec
fixes (00_scope.md R6), and the two signal levels (41_transmit.md R131). Nothing here computes. -/

namespace Sys2Proof

/-- One byte of the wire stream (R85, R86). -/
abbrev Byte := BitVec 8

/-- One channel value, `VALUE_WIDTH` = 16 bits (R6, R23). -/
abbrev Value := BitVec 16

/-- One brightness-correction value, `BC_WIDTH` = 7 bits (R6, R26). -/
abbrev Correction := BitVec 7

/-- The 32-bit command word sent before every chip frame (R6, R81). -/
abbrev CmdWord := BitVec 32

/-- One host command in the 80-bit format `HC` (R71). -/
abbrev HostWord := BitVec 80

/-- The 4-bit operation code of a host command (R71, R72). -/
abbrev Opcode := BitVec 4

/-- A level the block writes to a pin; `low` and `high` stand for bit values 0 and 1 (R131). -/
inductive Level where
  | low
  | high
  deriving DecidableEq, Repr, Inhabited

end Sys2Proof
end

