-- ==== Sys2Proof/Config.lean ====
section
/-! DEFINITION. What an implementation fixes. `Configuration` is the data reset takes (00_scope.md R7, R8;
10_state.md R20, R24): it is a field of State. The `opaque` constants are the open parameters of R9 and the
one free draw of R36: they have no body, so no proof can learn their values. -/

namespace Sys2Proof

/-- `CH_PER_CHIP` (R6; 90_conflicts.md C1). -/
def Config.channelsPerChip : Nat := 12

/-- `FRAME_BYTES` (R6). -/
def Config.frameBytes : Nat := 28

/-- `T_SETTLE_BB` in microseconds (R6, R21). -/
def Config.settleBitBang : Nat := 200

/-- `T_SETTLE_HW` in microseconds (R6, R21). -/
def Config.settleHwSerial : Nat := 2

/-- A pin identifier: an opaque label the block passes to the GPIO interface and never interprets (R8). -/
abbrev PinId := Nat

/-- The transport mode, chosen at reset (R8). -/
inductive Mode where
  | bitBang (clkPin datPin : PinId)
  | hwSerial
  deriving DecidableEq, Repr

/-- The three inputs of reset, read-only afterwards (R20): `N`, `MODE` and `ALLOC_OK`. -/
structure Configuration where
  chainLength : Nat
  mode : Mode
  allocOk : Bool
  deriving DecidableEq, Repr

/-- How far the implementation's `N_MAX` lies above 1 (R9, 92_eei_decisions.md D9: open). -/
opaque Config.nMaxAboveOne : Nat

/-- `N_MAX` (R7, R9). DEDUCED (log 3): it is at least 1, or no configuration at all would be accepted. -/
def Config.nMax : Nat := Config.nMaxAboveOne + 1

/-- `SPI_CLK_DIV`, the clock divisor of the hardware-serial bus (R9, D18: open). -/
opaque Config.spiClkDiv : Nat

/-- `T_BIT_BB`, the time between successive clock rising edges in BitBang mode, in nanoseconds (R9, R191,
D19: open). -/
opaque Config.tBitBB : Nat

/-- `T_LATCH`, the downstream chain's latch timeout, in nanoseconds (R9, D20: open). -/
opaque Config.tLatch : Nat

/-- What the host does with its interrupt mask after a TRANSMIT (R182). -/
inductive HostIrqRestore where
  | reenable
  | restore
  deriving DecidableEq, Repr, Inhabited

/-- `HOST_IRQ_RESTORE` (R9, R182, D17: open). -/
opaque Config.hostIrqRestore : HostIrqRestore

/-- FREE VALUE (log 2). The level a pin takes when BEGIN makes it an output is a free draw of `Low` or
`High` (R36, R101, R102, D15). The argument counts the draws of the run. -/
opaque Config.freeLevel : Nat → Level

/-- Bit order of the serial bus (R92). -/
inductive BitOrder where
  | msbFirst
  deriving DecidableEq, Repr

/-- The settings of the serial bus: bit order, clock polarity and phase ("mode 0"), divisor (R92, R190). -/
structure BusSettings where
  bitOrder : BitOrder
  clockMode : Nat
  divisor : Nat
  deriving DecidableEq, Repr

/-- The settings reset records and BEGIN applies, in HwSerial mode only (R92, R201). -/
def Configuration.busSettings (c : Configuration) : Option BusSettings :=
  match c.mode with
  | .bitBang _ _ => none
  | .hwSerial => some ⟨.msbFirst, 0, Config.spiClkDiv⟩

/-- `NCH = 12 * N`, the number of transmitted slots (R7, R21). -/
def Configuration.nch (c : Configuration) : Nat := Config.channelsPerChip * c.chainLength

/-- `T_SETTLE` in microseconds (R21). -/
def Configuration.settle (c : Configuration) : Nat :=
  match c.mode with
  | .bitBang _ _ => Config.settleBitBang
  | .hwSerial => Config.settleHwSerial

end Sys2Proof
end

