-- ==== Sys2Proof/Syntax.lean ====
section
/-! DEFINITION. The host commands of spec/opcode_table.json, one constructor per row (30_encoding.md R72,
R73). Operands are unsigned and have the widths of R75. -/

namespace Sys2Proof

inductive Instr where
  /-- BEGIN (R101). -/
  | begin
  /-- SET_CHANNEL: `idx` is the channel index, `val` the value (R104). -/
  | setChannel (idx : BitVec 16) (val : Value)
  /-- SET_PIXEL: `p` is the pixel index; `r`, `g`, `b` go to slots `3p`, `3p+1`, `3p+2` (R108). -/
  | setPixel (p : BitVec 16) (r g b : Value)
  /-- SET_BC: the three 7-bit brightness-correction values (R110). -/
  | setBc (r g b : Correction)
  /-- TRANSMIT (R130). -/
  | transmit
  deriving DecidableEq, Repr

/-- The operation code of each command (R72). -/
def Instr.opcode : Instr → Opcode
  | .begin => 0x1#4
  | .setChannel _ _ => 0x2#4
  | .setPixel _ _ _ _ => 0x3#4
  | .setBc _ _ _ => 0x4#4
  | .transmit => 0x5#4

end Sys2Proof
end

