-- ==== Sys2Proof/WellFormed.lean ====
section
/-! DEFINITION. The checks that the types do not carry already. An operand of a command has exactly the
width of its field (30_encoding.md R73, R75), so a correction value above 127 cannot be written down as an
`Instr`: it is refused at decode (R76), and an operand too wide for its field is refused by the assembler
(R78, Machine/Assembler.lean). What is left to check is the configuration reset is given (00_scope.md R7). -/

namespace Sys2Proof

/-- Every command is well formed: each operand's type is its field's width (R73, R75). -/
def Instr.wellFormed : Instr → Bool
  | .begin => true
  | .setChannel _ _ => true
  | .setPixel _ _ _ _ => true
  | .setBc _ _ _ => true
  | .transmit => true

/-- The block is instantiated only with `1 <= N <= N_MAX` (R7, R200). -/
def Configuration.wellFormed (c : Configuration) : Bool :=
  decide (1 ≤ c.chainLength) && decide (c.chainLength ≤ Config.nMax)

end Sys2Proof
end

