-- ==== Sys2Proof/Decode.lean ====
section
/-! DEFINITION. The decoder of the host command format `HC`, total on every 80-bit word (30_encoding.md
R71 to R77), and the encoder written from the same table. -/

namespace Sys2Proof

/-- Why a word is not a command (R74, 60_exceptions.md R176). -/
inductive RefuseReason where
  | reservedOpcode
  | reservedField
  | bcRange
  deriving DecidableEq, Repr

/-- The decoder's answer: a command, or a refusal by name. -/
inductive Decoded where
  | command (i : Instr)
  | refuse (r : RefuseReason)
  deriving DecidableEq, Repr

/-- `op`, bits 3:0 (R71). -/
def fieldOp (w : HostWord) : Opcode := w.extractLsb' 0 4

/-- `rsv`, bits 15:4 (R71). -/
def fieldRsv (w : HostWord) : BitVec 12 := w.extractLsb' 4 12

/-- Operand A, bits 31:16 (R71). -/
def fieldA (w : HostWord) : BitVec 16 := w.extractLsb' 16 16

/-- Operand B, bits 47:32 (R71). -/
def fieldB (w : HostWord) : BitVec 16 := w.extractLsb' 32 16

/-- Operand C, bits 63:48 (R71). -/
def fieldC (w : HostWord) : BitVec 16 := w.extractLsb' 48 16

/-- Operand D, bits 79:64 (R71). -/
def fieldD (w : HostWord) : BitVec 16 := w.extractLsb' 64 16

/-- Bits 15:7 of an operand, which a correction value must leave 0 (R73, R74). -/
def aboveCorrection (a : BitVec 16) : BitVec 9 := a.extractLsb' 7 9

/-- Bits 6:0 of an operand, a correction value (R73, R74). -/
def correctionOf (a : BitVec 16) : Correction := a.extractLsb' 0 7

/-- BEGIN and TRANSMIT use no operand: any nonzero one is refused (R74). -/
def decodeBare (i : Instr) (w : HostWord) : Decoded :=
  if fieldA w = 0#16 ∧ fieldB w = 0#16 ∧ fieldC w = 0#16 ∧ fieldD w = 0#16 then .command i
  else .refuse .reservedField

/-- SET_CHANNEL uses A and B; C and D must be 0 (R74). -/
def decodeSetChannel (w : HostWord) : Decoded :=
  if fieldC w = 0#16 ∧ fieldD w = 0#16 then .command (.setChannel (fieldA w) (fieldB w))
  else .refuse .reservedField

/-- SET_BC: D must be 0, and only then are the three values checked against 127 (R74). -/
def decodeSetBc (w : HostWord) : Decoded :=
  if fieldD w ≠ 0#16 then .refuse .reservedField
  else if aboveCorrection (fieldA w) ≠ 0#9 ∨ aboveCorrection (fieldB w) ≠ 0#9 ∨ aboveCorrection (fieldC w) ≠ 0#9 then
    .refuse .bcRange
  else .command (.setBc (correctionOf (fieldA w)) (correctionOf (fieldB w)) (correctionOf (fieldC w)))

/-- `Decode` of R74, its checks in R74's order. -/
def decode (w : HostWord) : Decoded :=
  if fieldOp w = 0x0#4 ∨ 0x5#4 < fieldOp w then .refuse .reservedOpcode
  else if fieldRsv w ≠ 0#12 then .refuse .reservedField
  else if fieldOp w = 0x1#4 then decodeBare .begin w
  else if fieldOp w = 0x2#4 then decodeSetChannel w
  else if fieldOp w = 0x3#4 then .command (.setPixel (fieldA w) (fieldB w) (fieldC w) (fieldD w))
  else if fieldOp w = 0x4#4 then decodeSetBc w
  else decodeBare .transmit w

/-- The word with the given opcode and operands and `rsv = 0` (R71). -/
def pack (op : Opcode) (a b c d : BitVec 16) : HostWord :=
  d ++ c ++ b ++ a ++ 0#12 ++ op

/-- The word of each command (R73). -/
def encode : Instr → HostWord
  | .begin => pack 0x1#4 0#16 0#16 0#16 0#16
  | .setChannel idx val => pack 0x2#4 idx val 0#16 0#16
  | .setPixel p r g b => pack 0x3#4 p r g b
  | .setBc r g b => pack 0x4#4 (r.setWidth 16) (g.setWidth 16) (b.setWidth 16) 0#16
  | .transmit => pack 0x5#4 0#16 0#16 0#16 0#16

/-- The command a word stands for, if it is one. -/
def decodeCommand (w : HostWord) : Option Instr :=
  match decode w with
  | .command i => some i
  | .refuse _ => none

/-- The host word whose low `nbits` bits are those of `w`, and whose bits above are 0. -/
def tableWord (nbits w : Nat) : HostWord := BitVec.ofNat 80 (w % 2 ^ nbits)

/-- The instruction the decoder reads from a table row's bits. A command is one 80-bit word (R77), numbered
as the table numbers it (R71), so nothing is laid out again; DESIGN CHOICE (log 16): a row
wider than 80 bits is no command. Safe. -/
def decodeTableWord (nbits w : Nat) : Option Instr :=
  if nbits ≤ 80 then decodeCommand (tableWord nbits w) else none

end Sys2Proof
end

