-- ==== Sys2Proof/Machine/State.lean ====
section
/-! DEFINITION. The state of the block (10_state.md) as plain data, the reasons a step can stop, and the
state after reset (70_reset_and_hazards.md R200). -/

namespace Sys2Proof.Machine

/-- A wire line of the BitBang pair (R36). -/
inductive Line where
  | undriven
  | driven (l : Level)
  deriving DecidableEq, Repr

/-- The sequencing state (R34). In `shift n j` the next byte is byte `j` of chip frame `n`. -/
inductive Phase where
  | idle
  | shift (n : Nat) (j : Fin 28)
  | unmask
  | settle
  | faulted
  | refused
  deriving DecidableEq, Repr

/-- The `fault` register: `None`, `NoBuffer` (code 1), `NotBegun` (code 2) (R30, R172, R173). -/
inductive FaultCause where
  | none
  | noBuffer
  | notBegun
  deriving DecidableEq, Repr

/-- The events of the block's history (41_transmit.md R131). Times are in microseconds. -/
inductive Event where
  | pinsDriven (c d : Level)
  | busInit
  | irqMask (on : Bool)
  | clk (l : Level)
  | dat (l : Level)
  | byteXfer (v : Byte)
  | settleBegin (t : Nat)
  | settleEnd
  deriving DecidableEq, Repr

/-- The channel buffer as a list of (slot index, value), indices strictly rising and no value 0. A slot that
is not listed reads as 0, its reset value (20_memory.md R50, 10_state.md R23). The cell is the slot: it is the
smallest thing the spec addresses (R50, R61), and no slot has a byte address.
DESIGN CHOICE (log 6): the representation. Safe. -/
abbrev Memory := List (Nat × Value)

structure State where
  /-- `N`, `MODE`, `ALLOC_OK` (R20, R24). -/
  config : Configuration
  /-- `buf[0 .. NCH-1]` (R23). -/
  buf : Memory
  /-- The boundary slot, index `NCH` (R25). -/
  spare : Value
  /-- `bc_r` (R26). -/
  bcR : Correction
  /-- `bc_g` (R26). -/
  bcG : Correction
  /-- `bc_b` (R26). -/
  bcB : Correction
  /-- `begun` (R27). -/
  begun : Bool
  /-- `begin_ok` (R28). -/
  beginOk : Bool
  /-- `boundary_written` (R29). -/
  boundaryWritten : Bool
  /-- `fault` (R30). -/
  fault : FaultCause
  /-- `fault_op` (R30). -/
  faultOp : Opcode
  /-- `refused` (R31). -/
  refused : Bool
  /-- `phase` (R34). -/
  phase : Phase
  /-- `cmd_snap` (R35). -/
  cmdSnap : CmdWord
  /-- The clock line (R36); DESIGN CHOICE (log 9): `Undriven` in HwSerial mode, where the block does not track it (R37). -/
  clk : Line
  /-- The data line (R36); in HwSerial mode as `clk` (log 9). -/
  dat : Line
  /-- `irq_mask_req` (R38). -/
  irqMaskReq : Bool
  /-- `hist`, oldest event first (R39). -/
  hist : List Event
  /-- The MODEL's own field (log 1): the commands the host has still to present, the next one first (R70). -/
  port : List HostWord
  /-- The MODEL's own field (log 2): how many free levels the run has drawn (R36). -/
  draws : Nat
  deriving DecidableEq, Repr

/-- Why a step of the block is a fault. A fault of the SPEC (R171) is not one of these: taking it is a next
state, with `fault`, `fault_op` and `phase` written. -/
inductive Fault where
  /-- Raised by `step` in `phase = Faulted`, where the block "has no step" until reset (R171, 93 I15). DEDUCED (log 7). Safe: the
  model stops where the block does. -/
  | haltedByFault
  /-- Raised by `step` in a phase `Shift(n, j)` of a frame that does not exist: `n` is not below `N`, or there is
  no buffer (R34, R50, R134). No run reaches it. DEDUCED (log 8). Safe: the model stops where the spec has no state. -/
  | noSuchFrame
  deriving DecidableEq, Repr

/-- Why a step of the block is refused. -/
inductive Refusal where
  /-- Raised by an arm of `exec` that has no meaning yet. Safe. No arm raises it. -/
  | notModelled (mnemonic : String)
  /-- Raised by `step` in `phase = Refused`, where the block "has no step until reset" and "no claim can be
  proved about a run" (R176, 93 I15). DEDUCED (log 7). Safe: the model stops where the block does. -/
  | haltedByRefusal
  deriving DecidableEq, Repr

/-- What reset leaves to a free draw: `spare` (R25) and `cmd_snap` (R35) hold any value. -/
structure ResetDraws where
  spare : Value
  cmdSnap : CmdWord
  deriving DecidableEq, Repr

/-- Every piece of state at the value reset gives it (R200), for a configuration and the values drawn. -/
def State.construct (c : Configuration) (d : ResetDraws) : State where
  config := c
  buf := []
  spare := d.spare
  bcR := 127#7
  bcG := 127#7
  bcB := 127#7
  begun := false
  beginOk := false
  boundaryWritten := false
  fault := .none
  faultOp := 0x0#4
  refused := false
  phase := .idle
  cmdSnap := d.cmdSnap
  clk := .undriven
  dat := .undriven
  irqMaskReq := false
  hist := []
  port := []
  draws := 0

/-- Reset: a configuration with `N = 0` or `N > N_MAX` is refused, and no block comes to be (R7, R200). -/
def State.resetWith (c : Configuration) (d : ResetDraws) : Option State :=
  if c.wellFormed then some (State.construct c d) else none

/-- DESIGN CHOICE (log 4): the configuration of `State.reset`. The spec fixes none of the three (R7, R8, R24). -/
def resetConfiguration : Configuration := ⟨1, .hwSerial, true⟩

/-- DESIGN CHOICE (log 5): the values `State.reset` holds where R25 and R35 say "unspecified". -/
def resetDraws : ResetDraws := ⟨0#16, 0#32⟩

/-- The machine right after reset (R200), in the configuration of log 4 and with the draws of log 5. -/
def State.reset : State := State.construct resetConfiguration resetDraws

end Sys2Proof.Machine
end

