-- ==== Sys2Proof/Machine/Flags.lean ====
section
/-! DEFINITION. The status bits (10_state.md R27 to R32) and the one operation each that writes them. The
block has no condition codes, and no command writes a status bit except through these (R32). -/

namespace Sys2Proof.Machine

/-- `begin_ok <- b`, the result of a BEGIN (R28). -/
def State.withBeginOk (b : Bool) (s : State) : State := { s with beginOk := b }

/-- `begun <- 1` (R27). -/
def State.markBegun (s : State) : State := { s with begun := true }

/-- An accepted write to the boundary slot: the slot, and its sticky flag (R29, R51, R105). -/
def State.writeBoundary (v : Value) (s : State) : State := { s with spare := v, boundaryWritten := true }

/-- `fault <- cause`, `fault_op <- op` (R30). -/
def State.recordFault (cause : FaultCause) (op : Opcode) (s : State) : State :=
  { s with fault := cause, faultOp := op }

/-- `refused <- 1` (R31). -/
def State.markRefused (s : State) : State := { s with refused := true }

/-- The code `fault` encodes as (R174). -/
def faultCode (cause : FaultCause) : Nat :=
  match cause with
  | .none => 0
  | .noBuffer => 1
  | .notBegun => 2

end Sys2Proof.Machine
end

