-- ==== Sys2Proof/Machine/Operands.lean ====
section
/-! DEFINITION. Operand assembly and index arithmetic (30_encoding.md R75; 20_memory.md R53, R54), and the
splitting of values into bytes and bits, most significant first (R56 to R58). Indices are exact integers. -/

namespace Sys2Proof.Machine

/-- A 16-bit index operand as an exact integer (R75). -/
def indexOf (a : BitVec 16) : Nat := a.toNat

/-- Slot `k` of pixel `p`: `3p + k`, with no wrap-around (R54, R75, R108). -/
def pixelSlot (p : BitVec 16) (k : Nat) : Nat := 3 * indexOf p + k

/-- Channel `c` of chip frame `n` is slot `12n + c` (R53). -/
def chipSlot (n c : Nat) : Nat := Config.channelsPerChip * n + c

/-- The high byte of a value, bits 15:8 (R58). -/
def highByte (v : Value) : Byte := v.extractLsb' 8 8

/-- The low byte of a value, bits 7:0 (R58). -/
def lowByte (v : Value) : Byte := v.extractLsb' 0 8

/-- Byte `j` of the command word, most significant first (R57, R85). -/
def commandByte (c : CmdWord) (j : Nat) : Byte := c.extractLsb' (24 - 8 * j) 8

/-- The bits of a byte in the order they are sent: `v[7]` first (R88). -/
def bitsOfByte (v : Byte) : List Bool :=
  [v.getLsbD 7, v.getLsbD 6, v.getLsbD 5, v.getLsbD 4, v.getLsbD 3, v.getLsbD 2, v.getLsbD 1, v.getLsbD 0]

/-- `Low` and `High` stand for bit values 0 and 1 (R131). -/
def levelOf (b : Bool) : Level := if b then .high else .low

end Sys2Proof.Machine
end

