-- ==== Sys2Proof/Machine/Ops.lean ====
section
/-! DEFINITION. The named operations the meanings share: the channel buffer (20_memory.md R51, R52), the
event history (00_scope.md R11), the lines, and taking a fault or a refusal (60_exceptions.md R171, R176). -/

namespace Sys2Proof.Machine

/-- The value of slot `i`: an unlisted slot holds 0, its reset value (R23). -/
def memRead : Memory → Nat → Value
  | [], _ => 0#16
  | (k, w) :: rest, i => if i = k then w else memRead rest i

/-- `m` with slot `i` holding `v`, in the canonical form: a slot that comes to hold 0 is not listed. -/
def memWrite : Memory → Nat → Value → Memory
  | [], i, v => if v = 0#16 then [] else [(i, v)]
  | (k, w) :: rest, i, v =>
    if i < k then (if v = 0#16 then (k, w) :: rest else (i, v) :: (k, w) :: rest)
    else if i = k then (if v = 0#16 then rest else (i, v) :: rest)
    else (k, w) :: memWrite rest i v

/-- Every listed index is at least `lo`, the indices rise strictly, and no listed value is 0. -/
def memWfFrom : Nat → Memory → Bool
  | _, [] => true
  | lo, (k, w) :: rest => decide (lo ≤ k) && decide (w ≠ 0#16) && memWfFrom (k + 1) rest

/-- The canonical form of the channel buffer. -/
def Memory.wf (m : Memory) : Bool := memWfFrom 0 m

/-- Every listed index lies below `n`. -/
def memBelow (n : Nat) (m : Memory) : Bool := m.all fun c => decide (c.1 < n)

/-- `NCH` (R7, R21). -/
def State.nch (s : State) : Nat := s.config.nch

/-- `BufRead(i)` (R52). Only `shiftStep` calls it, with indices below `NCH`. -/
def bufRead (s : State) (i : Nat) : Value := memRead s.buf i

/-- `BufWrite(i, v)` (R51): ignored above `NCH`, the boundary slot at `NCH`, the buffer below. -/
def bufWrite (i : Nat) (v : Value) (s : State) : State :=
  if s.nch < i then s
  else if i = s.nch then s.writeBoundary v
  else { s with buf := memWrite s.buf i v }

/-- `emit(e)` (R11): the event goes to the end of the history. -/
def State.emit (e : Event) (s : State) : State := { s with hist := s.hist ++ [e] }

/-- Write the clock pin; every pin write is an event (R136). -/
def writeClk (l : Level) (s : State) : State := State.emit (.clk l) { s with clk := .driven l }

/-- Write the data pin; every pin write is an event (R136). -/
def writeDat (l : Level) (s : State) : State := State.emit (.dat l) { s with dat := .driven l }

/-- `phase <- p` (R11). -/
def State.goto (p : Phase) (s : State) : State := { s with phase := p }

/-- Write the mask request to the host; each write is an event (R133, R141). -/
def setIrqMask (on : Bool) (s : State) : State := State.emit (.irqMask on) { s with irqMaskReq := on }

/-- FAULT ENTRY, `raise Fault(cause)` (R171): `fault`, `fault_op` and `phase` are written and nothing else
changes. There is no return from a fault: only reset leaves `Faulted` (R180). -/
def raiseFault (cause : FaultCause) (op : Opcode) (s : State) : State :=
  (s.recordFault cause op).goto .faulted

/-- REFUSAL of a word that is no command (R176): `refused` and `phase` are written and nothing else changes. -/
def refuseCommand (s : State) : State := s.markRefused.goto .refused

end Sys2Proof.Machine
end

