-- ==== Sys2Proof/Machine/Begin.lean ====
section
/-! DEFINITION. BEGIN (40_buffer_ops.md R101 to R103). -/

namespace Sys2Proof.Machine

/-- The pins become outputs: each takes a free draw of `Low` or `High`, the clock's drawn first (R36, R101). -/
def drivePins (s : State) : State :=
  let c := Config.freeLevel s.draws
  let d := Config.freeLevel (s.draws + 1)
  State.emit (.pinsDriven c d) { s with clk := .driven c, dat := .driven d, draws := s.draws + 2 }

/-- The set-up of the pins or of the bus, done once (R101, R102, D14). -/
def setUpLines (s : State) : State :=
  match s.config.mode with
  | .bitBang _ _ => if s.clk = .undriven then drivePins s else s
  | .hwSerial => if s.begun then s else s.emit .busInit

/-- BEGIN (R101). -/
def execBegin (s : State) : Host.Outcome State Fault Refusal :=
  if s.config.allocOk then .next ((setUpLines s).markBegun.withBeginOk true)
  else .next (s.withBeginOk false)

end Sys2Proof.Machine
end

