-- ==== Sys2Proof/Machine/BufferOps.lean ====
section
/-! DEFINITION. SET_CHANNEL (40_buffer_ops.md R104 to R107), SET_PIXEL (R108, R109) and SET_BC (R110). -/

namespace Sys2Proof.Machine

/-- A command that needs the buffer: `Fault(NoBuffer)` before any effect where there is none (R172, R175). -/
def withBuffer (op : Opcode) (effect : State → State) (s : State) : Host.Outcome State Fault Refusal :=
  if s.config.allocOk then .next (effect s) else .next (raiseFault .noBuffer op s)

/-- SET_CHANNEL (R104). -/
def execSetChannel (idx : BitVec 16) (val : Value) (s : State) : Host.Outcome State Fault Refusal :=
  withBuffer (Instr.setChannel idx val).opcode (bufWrite (indexOf idx) val) s

/-- The three slot writes of a pixel, in order, each range-checked on its own (R62, R108). -/
def writePixel (p : BitVec 16) (r g b : Value) (s : State) : State :=
  bufWrite (pixelSlot p 2) b (bufWrite (pixelSlot p 1) g (bufWrite (pixelSlot p 0) r s))

/-- SET_PIXEL (R108). -/
def execSetPixel (p : BitVec 16) (r g b : Value) (s : State) : Host.Outcome State Fault Refusal :=
  withBuffer (Instr.setPixel p r g b).opcode (writePixel p r g b) s

/-- SET_BC (R110): the three registers together; it needs no buffer and never faults. -/
def execSetBc (r g b : Correction) (s : State) : Host.Outcome State Fault Refusal :=
  .next { s with bcR := r, bcG := g, bcB := b }

end Sys2Proof.Machine
end

