-- ==== Sys2Proof/Machine/Wire.lean ====
section
/-! DEFINITION. What goes on the wire: the command word and the chip frame (30_encoding.md R81 to R88), and
the byte primitives of the two modes (41_transmit.md R136, R138). -/

namespace Sys2Proof.Machine

/-- `MAGIC`, the write command (R6, R81). -/
def magic : Nat := 0x25

/-- `FLAGS`, the five control flags (R6, R81, R82; 90_conflicts.md C2). -/
def controlFlags : Nat := 0x16

/-- `BuildCmd`: the reference's shift-and-OR sequence on unbounded integers, then `trunc_32` (R10, R81). -/
def buildCmd (r g b : Correction) : CmdWord :=
  BitVec.ofNat 32
    ((((((magic <<< 5 ||| controlFlags) <<< 7) ||| r.toNat) <<< 7) ||| g.toNat) <<< 7 ||| b.toNat)

/-- The channel whose bytes are at frame byte `j`, for `j` from 4: channel 11 first, channel 0 last (R86). -/
def frameChannel (j : Nat) : Nat := 11 - (j - 4) / 2

/-- `FrameByte(n, j)` (R86): the command word's bytes, then the channels, high byte before low byte. -/
def frameByte (s : State) (n j : Nat) : Byte :=
  if j < 4 then commandByte s.cmdSnap j
  else if (j - 4) % 2 = 0 then highByte (bufRead s (chipSlot n (frameChannel j)))
  else lowByte (bufRead s (chipSlot n (frameChannel j)))

/-- One bit of the BitBang primitive: clock low, data, clock high (R136). -/
def sendBit (s : State) (b : Bool) : State :=
  writeClk .high (writeDat (levelOf b) (writeClk .low s))

/-- The BitBang byte primitive: the eight bits, `v[7]` first (R136). -/
def sendByteBitBang (v : Byte) (s : State) : State := (bitsOfByte v).foldl sendBit s

/-- The HwSerial byte primitive: the whole byte goes to the external bus (R138). The lines are the bus's, and
the block does not track them (R37). -/
def sendByteHwSerial (v : Byte) (s : State) : State := s.emit (.byteXfer v)

/-- `SendByte` (R130, R135). -/
def sendByte (v : Byte) (s : State) : State :=
  match s.config.mode with
  | .bitBang _ _ => sendByteBitBang v s
  | .hwSerial => sendByteHwSerial v s

end Sys2Proof.Machine
end

