-- ==== Sys2Proof/Machine/Transmit.lean ====
section
/-! DEFINITION. TRANSMIT (41_transmit.md R130 to R135, R140 to R142): the command's own step is its checks
and its Start; the transmission then runs as steps of the state machine of R135
(DEDUCED, log 18; safe). -/

namespace Sys2Proof.Machine

/-- The Start step (R133): snapshot the command word, assert the mask, enter `Shift(0, 0)`. -/
def startTransmit (s : State) : State :=
  (setIrqMask true { s with cmdSnap := buildCmd s.bcR s.bcG s.bcB }).goto (.shift 0 0)

/-- TRANSMIT: the checks of R132, in order, then the Start step (R130, R178). -/
def execTransmit (s : State) : Host.Outcome State Fault Refusal :=
  if s.config.allocOk then
    if s.begun then .next (startTransmit s) else .next (raiseFault .notBegun Instr.transmit.opcode s)
  else .next (raiseFault .noBuffer Instr.transmit.opcode s)

/-- The phase after byte `j` of chip frame `n` (R135). -/
def nextPhase (chips n : Nat) (j : Fin 28) : Phase :=
  if h : j.val < 27 then .shift n ⟨j.val + 1, Nat.succ_lt_succ h⟩
  else if n + 1 < chips then .shift (n + 1) 0
  else .unmask

/-- One `Shift(n, j)` step (R134, R135): the byte is read from the buffer as it is sent. A frame that does not
exist has no bytes (R34, R50): the step faults there, and no run comes there. -/
def shiftStep (n : Nat) (j : Fin 28) (s : State) : Host.Outcome State Fault Refusal :=
  if s.config.allocOk ∧ n < s.config.chainLength then
    .next ((sendByte (frameByte s n j.val) s).goto (nextPhase s.config.chainLength n j))
  else .fault .noSuchFrame

/-- The Unmask step (R141). -/
def unmaskStep (s : State) : Host.Outcome State Fault Refusal :=
  .next ((setIrqMask false s).goto .settle)

/-- The Settle step (R142): the whole window is one step that carries its lower bound `T_SETTLE` and writes
no line. -/
def settleStep (s : State) : Host.Outcome State Fault Refusal :=
  .next (((s.emit (.settleBegin s.config.settle)).emit .settleEnd).goto .idle)

end Sys2Proof.Machine
end

