-- ==== Sys2Proof/Machine/Dispatch.lean ====
section
/-! DEFINITION. One arm per host command (30_encoding.md R72): the execution of a command the block has
accepted. DEDUCED (log 17): the phase is not looked at here; acceptance only in `Idle` is in `step`. Safe. -/

namespace Sys2Proof.Machine

/-- Executes an accepted command. -/
def exec (i : Instr) (s : State) : Host.Outcome State Fault Refusal :=
  match i with
  | .begin => Sys2Proof.Machine.execBegin s
  | .setChannel idx val => Sys2Proof.Machine.execSetChannel idx val s
  | .setPixel p r g b => Sys2Proof.Machine.execSetPixel p r g b s
  | .setBc r g b => Sys2Proof.Machine.execSetBc r g b s
  | .transmit => Sys2Proof.Machine.execTransmit s

end Sys2Proof.Machine
end

