-- ==== Sys2Proof/Machine/Sequencer.lean ====
section
/-! DEFINITION. What the block does next: the command port (30_encoding.md R70, R74) in `Idle`, the state
machine of a transmission (41_transmit.md R135) while one runs, and no step at all in `Faulted` and `Refused`
(60_exceptions.md R171, R176). -/

namespace Sys2Proof.Machine

/-- What a step is about to do: execute a command in a state, or answer without one. -/
inductive Action where
  | command (i : Instr) (s : State)
  | answer (o : Host.Outcome State Fault Refusal)

/-- The word `w` is taken from the port, decoded, and executed or refused (R70, R74, R176). -/
def takeWord (w : HostWord) (s : State) : Action :=
  match decode w with
  | .command i => .command i s
  | .refuse _ => .answer (.next (refuseCommand s))

/-- `phase = Idle`: the next command of the host, if it presents one; else the block waits and nothing changes
(R70, R194). -/
def acceptCommand (s : State) : Action :=
  match s.port with
  | [] => .answer (.next s)
  | w :: rest => takeWord w { s with port := rest }

/-- The block's next action in each phase (R34, R70, R135). -/
def nextAction (s : State) : Action :=
  match s.phase with
  | .idle => acceptCommand s
  | .shift n j => .answer (shiftStep n j s)
  | .unmask => .answer (unmaskStep s)
  | .settle => .answer (settleStep s)
  | .faulted => .answer (.fault .haltedByFault)
  | .refused => .answer (.refused .haltedByRefusal)

/-- `s` with the word of a table row as the next command the host presents to an idle block. -/
def presentWord (s : State) (nbits w : Nat) : State :=
  { s with phase := .idle, port := tableWord nbits w :: s.port }

end Sys2Proof.Machine
end

