-- ==== Sys2Proof/Machine/Step.lean ====
section
/-! DEFINITION. One step of the block (00_scope.md R15, 41_transmit.md R135). What a step does in each phase
is `nextAction`; a command it accepts is executed by `exec`. -/

namespace Sys2Proof.Machine

def step (s : State) : Host.Outcome State Fault Refusal :=
  match nextAction s with
  | .command i t => exec i t
  | .answer o => o

/-- The host presents the word of a table row next, to an idle block. There is no instruction memory
(20_memory.md R68): the command port is where the next command comes from. -/
def State.withFetchWord (s : State) (nbits w : Nat) : State := presentWord s nbits w

end Sys2Proof.Machine
end

