-- ==== Sys2Proof/Machine/Assembler.lean ====
section
/-! DEFINITION. The assembler syntax and the pseudo-instructions (30_encoding.md R78, R79): a line of text, the
line it spells, and the commands it stands for. A tool of the host: no step of the block uses it.
DESIGN CHOICE (log 13): the lexical details R78 leaves open. Safe. -/

namespace Sys2Proof.Machine

/-- A line of assembly: the five commands (R78) and the three pseudo-instructions (R79), with the numbers as
written. -/
inductive AsmLine where
  | begin
  | setch (idx val : Nat)
  | setpix (p r g b : Nat)
  | setbc (r g b : Nat)
  | xmit
  | setbcall (v : Nat)
  | setchip (n c val : Nat)
  | blankall
  deriving DecidableEq, Repr

/-- An operand of 16 bits; anything above 65535 is an assembly error (R78). -/
def operand16 (x : Nat) : Option (BitVec 16) := if x < 65536 then some (BitVec.ofNat 16 x) else none

/-- A correction value; anything above 127 is an assembly error (R78). -/
def operand7 (x : Nat) : Option Correction := if x < 128 then some (BitVec.ofNat 7 x) else none

/-- `SETCH idx, val` (R78). -/
def assembleSetch (idx val : Nat) : Option Instr :=
  match operand16 idx, operand16 val with
  | some i, some v => some (.setChannel i v)
  | _, _ => none

/-- `SETPIX p, r, g, b` (R78). -/
def assembleSetpix (p r g b : Nat) : Option Instr :=
  match operand16 p, operand16 r, operand16 g, operand16 b with
  | some p', some r', some g', some b' => some (.setPixel p' r' g' b')
  | _, _, _, _ => none

/-- `SETBC r, g, b` (R78). -/
def assembleSetbc (r g b : Nat) : Option Instr :=
  match operand7 r, operand7 g, operand7 b with
  | some r', some g', some b' => some (.setBc r' g' b')
  | _, _, _ => none

/-- All the lines' commands, or an error if one line is an error. -/
def collect : List (Option Instr) → Option (List Instr)
  | [] => some []
  | none :: _ => none
  | some i :: rest => (collect rest).map (i :: ·)

/-- The commands a line stands for, for a buffer of `nch` slots; `none` is an assembly error (R78, R79). -/
def assemble (nch : Nat) : AsmLine → Option (List Instr)
  | .begin => some [.begin]
  | .setch idx val => collect [assembleSetch idx val]
  | .setpix p r g b => collect [assembleSetpix p r g b]
  | .setbc r g b => collect [assembleSetbc r g b]
  | .xmit => some [.transmit]
  | .setbcall v => collect [assembleSetbc v v v]
  | .setchip n c val => if c ≤ 11 then collect [assembleSetch (12 * n + c) val] else none
  | .blankall => collect ((List.range nch).map fun i => assembleSetch i 0)

/-- White space inside a line. -/
def isBlank (c : Char) : Bool := c = ' ' || c = '\t'

/-- `cs` without white space at either end. -/
def trimBlanks (cs : List Char) : List Char := ((cs.dropWhile isBlank).reverse.dropWhile isBlank).reverse

/-- `;` starts a comment (R78). -/
def stripComment (cs : List Char) : List Char := cs.takeWhile fun c => c ≠ ';'

/-- The value of a digit of the given base. -/
def digitValue (base : Nat) (c : Char) : Option Nat :=
  let n := c.toNat
  let v := if 48 ≤ n ∧ n ≤ 57 then n - 48 else if 65 ≤ n ∧ n ≤ 70 then n - 55
    else if 97 ≤ n ∧ n ≤ 102 then n - 87 else base
  if v < base then some v else none

/-- The digits of a number after those already read. -/
def parseDigits (base : Nat) : Nat → List Char → Option Nat
  | acc, [] => some acc
  | acc, c :: cs =>
    match digitValue base c with
    | some v => parseDigits base (acc * base + v) cs
    | none => none

/-- Numbers are decimal or `0x` hexadecimal (R78). -/
def parseNumber : List Char → Option Nat
  | '0' :: 'x' :: d :: ds => parseDigits 16 0 (d :: ds)
  | d :: ds => parseDigits 10 0 (d :: ds)
  | [] => none

/-- The pieces of a line between commas. -/
def splitCommas : List Char → List (List Char)
  | [] => [[]]
  | c :: cs =>
    if c = ',' then [] :: splitCommas cs
    else
      match splitCommas cs with
      | [] => [[c]]
      | p :: ps => (c :: p) :: ps

/-- Every piece as a number. -/
def parseNumbers : List (List Char) → Option (List Nat)
  | [] => some []
  | p :: ps =>
    match parseNumber (trimBlanks p), parseNumbers ps with
    | some n, some ns => some (n :: ns)
    | _, _ => none

/-- The operands that follow a mnemonic. -/
def parseOperands (cs : List Char) : Option (List Nat) :=
  if trimBlanks cs = [] then some [] else parseNumbers (splitCommas cs)

/-- The line a mnemonic and its operands spell (R78, R79). -/
def lineOf (w : List Char) (ops : List Nat) : Option AsmLine :=
  match ops with
  | [] =>
    if w = ['B', 'E', 'G', 'I', 'N'] then some .begin
    else if w = ['X', 'M', 'I', 'T'] then some .xmit
    else if w = ['B', 'L', 'A', 'N', 'K', 'A', 'L', 'L'] then some .blankall
    else none
  | [v] => if w = ['S', 'E', 'T', 'B', 'C', 'A', 'L', 'L'] then some (.setbcall v) else none
  | [x, y] => if w = ['S', 'E', 'T', 'C', 'H'] then some (.setch x y) else none
  | [x, y, z] =>
    if w = ['S', 'E', 'T', 'B', 'C'] then some (.setbc x y z)
    else if w = ['S', 'E', 'T', 'C', 'H', 'I', 'P'] then some (.setchip x y z)
    else none
  | [p, r, g, b] => if w = ['S', 'E', 'T', 'P', 'I', 'X'] then some (.setpix p r g b) else none
  | _ => none

/-- A line of text (R78): an empty or comment line spells nothing; `none` is an assembly error. -/
def parseLine (cs : List Char) : Option (List AsmLine) :=
  let body := trimBlanks (stripComment cs)
  if body = [] then some []
  else
    match parseOperands (body.dropWhile fun c => !isBlank c) with
    | some ops => (lineOf (body.takeWhile fun c => !isBlank c) ops).map fun l => [l]
    | none => none

/-- The host words a line of text assembles to, for a buffer of `nch` slots (R71, R78). -/
def assembleText (nch : Nat) (cs : List Char) : Option (List HostWord) :=
  match parseLine cs with
  | some [] => some []
  | some (l :: _) => (assemble nch l).map fun is => is.map encode
  | none => none

end Sys2Proof.Machine
end

