-- ==== Sys2Proof/Safety.lean ====
section
/-! DEFINITION. The terms claims are stated in: what the host and the wire see of the block, the bit stream the
spec defines by formula (20_memory.md R59), and the invariant of a sound state. -/

namespace Sys2Proof.Machine

/-! ### What the host sees -/

/-- What the host can see of the block: `begin_ok`, `fault`, `fault_op`, `refused`, and whether it is ready for a
command (R28, R30, R41, R179). DESIGN CHOICE (log 19): `begun` is left out. R27 gives the host no read of it, and R41's list
of hidden state does not name it. Unsafe for a host that can read `begun`. -/
structure HostView where
  beginOk : Bool
  fault : FaultCause
  faultOp : Opcode
  refused : Bool
  ready : Bool
  deriving DecidableEq, Repr

def hostView (s : State) : HostView := ⟨s.beginOk, s.fault, s.faultOp, s.refused, decide (s.phase = .idle)⟩

/-- A transmission is under way: the host has no step (R15, R70, R154). -/
def Phase.busy : Phase → Bool
  | .shift _ _ => true
  | .unmask => true
  | .settle => true
  | .idle => false
  | .faulted => false
  | .refused => false

/-- The phases in which the mask request is asserted (R140). -/
def Phase.masked : Phase → Bool
  | .shift _ _ => true
  | .unmask => true
  | .settle => false
  | .idle => false
  | .faulted => false
  | .refused => false

/-- A run ends well only in `Idle` (R154, D24). -/
def GoodEnd (s : State) : Prop := s.phase = .idle

/-- What the host's own interrupt enable is after a TRANSMIT, given what it was before (R182). -/
def hostInterruptsAfter (before : Bool) : Bool :=
  match Config.hostIrqRestore with
  | .reenable => true
  | .restore => before

/-- The two premises of a claim about what the downstream chips latch (R144), times in nanoseconds: `gap` is the
longest gap between successive clock edges inside a chain transmission. In BitBang mode `T_BIT_BB` bounds it; in HwSerial
mode it is the external bus's own. -/
def LatchPremises (gap : Nat) (c : Configuration) : Prop :=
  gap < Config.tLatch ∧ Config.tLatch ≤ 1000 * c.settle

/-- Commands executed one after the other, stopping at the first fault or refusal (R66). -/
def execAll : List Instr → State → Host.Outcome State Fault Refusal
  | [], s => .next s
  | i :: rest, s =>
    match exec i s with
    | .next t => execAll rest t
    | .fault r => .fault r
    | .refused r => .refused r

/-- `f` applied to the next state, if there is one. -/
def mapNext (f : State → State) : Host.Outcome State Fault Refusal → Host.Outcome State Fault Refusal
  | .next t => .next (f t)
  | .fault r => .fault r
  | .refused r => .refused r

/-! ### What the wire sees -/

/-- Bit `i` of `FrameBit(n, f)`, the formula of R59 for frame bit `f`. -/
def frameBit (s : State) (n f : Nat) : Bool :=
  if f < 32 then s.cmdSnap.getLsbD (31 - f)
  else (bufRead s (12 * n + (11 - (f - 32) / 16))).getLsbD (15 - (f - 32) % 16)

/-- Bit `k` of the chain transmission (R59). -/
def chainBit (s : State) (k : Nat) : Bool := frameBit s (k / 224) (k % 224)

/-- Byte `t` of the chain transmission (R87). -/
def chainByte (s : State) (t : Nat) : Byte := frameByte s (t / 28) (t % 28)

/-- The `28 * N` bytes of the chain transmission (R87). -/
def chainBytes (s : State) : List Byte := (List.range (28 * s.config.chainLength)).map (chainByte s)

/-- The `224 * N` bits of the chain transmission, by the formula of R59. -/
def chainBits (s : State) : List Bool := (List.range (224 * s.config.chainLength)).map (chainBit s)

/-- The events one byte is sent as (R136, R138). -/
def byteEvents (m : Mode) (v : Byte) : List Event :=
  match m with
  | .bitBang _ _ => (bitsOfByte v).flatMap fun b => [.clk .low, .dat (levelOf b), .clk .high]
  | .hwSerial => [.byteXfer v]

/-- The state a transmission sends from: `s` with the command word of its correction registers (R133). -/
def withCommandWord (s : State) : State := { s with cmdSnap := buildCmd s.bcR s.bcG s.bcB }

/-- The whole history of one successful TRANSMIT from `s` (R130). -/
def transmitEvents (s : State) : List Event :=
  .irqMask true :: (chainBytes (withCommandWord s)).flatMap (byteEvents s.config.mode)
    ++ [.irqMask false, .settleBegin s.config.settle, .settleEnd]

/-- The number of steps of one TRANSMIT: Start, a step a byte, Unmask, Settle (R135). -/
def transmitSteps (s : State) : Nat := 28 * s.config.chainLength + 3

/-- The data levels at the rising clock edges of a history, from given line levels (R137). -/
def risingBits : Line → Line → List Event → List Bool
  | _, _, [] => []
  | c, d, .clk .high :: es =>
    if c = .driven .low then decide (d = .driven .high) :: risingBits (.driven .high) d es
    else risingBits (.driven .high) d es
  | _, d, .clk .low :: es => risingBits (.driven .low) d es
  | c, _, .dat l :: es => risingBits c (.driven l) es
  | _, _, .pinsDriven c d :: es => risingBits (.driven c) (.driven d) es
  | c, d, .busInit :: es => risingBits c d es
  | c, d, .irqMask _ :: es => risingBits c d es
  | c, d, .byteXfer _ :: es => risingBits c d es
  | c, d, .settleBegin _ :: es => risingBits c d es
  | c, d, .settleEnd :: es => risingBits c d es

/-- The bits the external bus clocks out for the bytes it is handed, MSB first (R138). -/
def busBits : List Event → List Bool
  | [] => []
  | .byteXfer v :: es => bitsOfByte v ++ busBits es
  | .pinsDriven _ _ :: es => busBits es
  | .busInit :: es => busBits es
  | .irqMask _ :: es => busBits es
  | .clk _ :: es => busBits es
  | .dat _ :: es => busBits es
  | .settleBegin _ :: es => busBits es
  | .settleEnd :: es => busBits es

/-- The bits a stretch of history delivers to the chain, in either mode (R139). -/
def deliveredBits (m : Mode) (c d : Line) (es : List Event) : List Bool :=
  match m with
  | .bitBang _ _ => risingBits c d es
  | .hwSerial => busBits es

/-- A clock event: `Clk` or `ByteXfer` (R143). -/
def Event.clocks : Event → Bool
  | .clk _ => true
  | .byteXfer _ => true
  | .dat _ => false
  | .pinsDriven _ _ => false
  | .busInit => false
  | .irqMask _ => false
  | .settleBegin _ => false
  | .settleEnd => false

/-- A pin event of the BitBang primitive: `Clk` or `Dat` (R136, R148). -/
def Event.writesPin : Event → Bool
  | .clk _ => true
  | .dat _ => true
  | .byteXfer _ => false
  | .pinsDriven _ _ => false
  | .busInit => false
  | .irqMask _ => false
  | .settleBegin _ => false
  | .settleEnd => false

/-- A byte handed to the bus (R138, R148). -/
def Event.transfersByte : Event → Bool
  | .byteXfer _ => true
  | .clk _ => false
  | .dat _ => false
  | .pinsDriven _ _ => false
  | .busInit => false
  | .irqMask _ => false
  | .settleBegin _ => false
  | .settleEnd => false

/-! ### The latch discipline of the history (R140, R142, R143) -/

/-- Where a history stands: no clock event since the last settle window; inside the masked section; mask released
and a settle window owed; inside the window. -/
inductive Latch where
  | quiet
  | clocking
  | owed
  | settling
  deriving DecidableEq, Repr

/-- One event of a history that keeps the discipline, for the settle time `settle`. -/
def latchStep (settle : Nat) : Latch → Event → Option Latch
  | .quiet, .pinsDriven _ _ => some .quiet
  | .quiet, .busInit => some .quiet
  | .quiet, .irqMask true => some .clocking
  | .clocking, .clk _ => some .clocking
  | .clocking, .dat _ => some .clocking
  | .clocking, .byteXfer _ => some .clocking
  | .clocking, .irqMask false => some .owed
  | .owed, .settleBegin t => if t = settle then some .settling else none
  | .settling, .settleEnd => some .quiet
  | _, _ => none

/-- A stretch of history that keeps the discipline, and where it ends. -/
def latchScan (settle : Nat) : Latch → List Event → Option Latch
  | l, [] => some l
  | l, e :: es =>
    match latchStep settle l e with
    | some l' => latchScan settle l' es
    | none => none

/-- Where the history stands in each phase. -/
def Phase.latch : Phase → Latch
  | .shift _ _ => .clocking
  | .unmask => .clocking
  | .settle => .owed
  | .idle => .quiet
  | .faulted => .quiet
  | .refused => .quiet

/-- The history keeps the latch discipline and stands where the phase says. -/
def LatchInv (s : State) : Prop := latchScan s.config.settle .quiet s.hist = some s.phase.latch

/-- The line levels a history leaves (R36, R131). -/
def linesAfter : Line × Line → List Event → Line × Line
  | l, [] => l
  | (_, d), .clk c :: es => linesAfter (.driven c, d) es
  | (c, _), .dat d :: es => linesAfter (c, .driven d) es
  | _, .pinsDriven c d :: es => linesAfter (.driven c, .driven d) es
  | l, .busInit :: es => linesAfter l es
  | l, .irqMask _ :: es => linesAfter l es
  | l, .byteXfer _ :: es => linesAfter l es
  | l, .settleBegin _ :: es => linesAfter l es
  | l, .settleEnd :: es => linesAfter l es

/-! ### The invariant of a sound state -/

/-- The buffer is canonical and lists only slots that exist; without a buffer nothing was ever written to one and
BEGIN never succeeded (R23, R24, R101). That the field is there, empty, without a buffer is the model's choice (log 6). -/
def BufferInv (s : State) : Prop :=
  s.buf.wf = true ∧ memBelow s.nch s.buf = true ∧
  (s.config.allocOk = false → s.buf = [] ∧ s.boundaryWritten = false ∧ s.begun = false)

/-- The lines are driven exactly after a successful BEGIN in BitBang mode, never by the block in HwSerial mode, and
stand where the history left them (R36, R37). That they read `Undriven` in HwSerial mode is the model's choice (log 9). -/
def LinesInv (s : State) : Prop :=
  linesAfter (.undriven, .undriven) s.hist = (s.clk, s.dat) ∧
  match s.config.mode with
  | .bitBang _ _ => (s.clk = .undriven ↔ s.begun = false) ∧ (s.dat = .undriven ↔ s.begun = false)
  | .hwSerial => s.clk = .undriven ∧ s.dat = .undriven

/-- A busy block has a buffer and was begun, sends a frame that exists, and holds the command word of its correction
registers (R34, R132, R133). -/
def PhaseInv (s : State) : Prop :=
  (s.phase.busy = true →
    s.config.allocOk = true ∧ s.begun = true ∧ s.cmdSnap = buildCmd s.bcR s.bcG s.bcB) ∧
  (∀ n j, s.phase = .shift n j → n < s.config.chainLength)

/-- The mask request follows the phase (R140). -/
def MaskInv (s : State) : Prop := s.irqMaskReq = s.phase.masked

/-- What `fault` and `fault_op` can hold (R30, R171 to R174). -/
def FaultInv (s : State) : Prop :=
  match s.fault with
  | .none => s.phase ≠ .faulted ∧ s.faultOp = 0x0#4
  | .noBuffer => s.phase = .faulted ∧ s.config.allocOk = false ∧
      (s.faultOp = 0x2#4 ∨ s.faultOp = 0x3#4 ∨ s.faultOp = 0x5#4)
  | .notBegun => s.phase = .faulted ∧ s.config.allocOk = true ∧ s.begun = false ∧ s.faultOp = 0x5#4

/-- The invariant every step keeps. -/
structure Inv (s : State) : Prop where
  config : s.config.wellFormed = true
  buffer : BufferInv s
  result : s.beginOk = s.begun
  lines : LinesInv s
  phase : PhaseInv s
  mask : MaskInv s
  fault : FaultInv s
  refused : s.refused = true ↔ s.phase = .refused
  latch : LatchInv s

end Sys2Proof.Machine
end

