-- ==== Sys2Proof/Certificates/Slice0/Obligations.lean ====
section
/-! DEFINITION. The statements for the provers, taken from the numbered rules of spec/. Each docstring names the
rule. Where a clause is the model's own choice it says so and names the log entry. -/

open Sys2Proof Sys2Proof.Machine

/-! ### Encoding -/

/-- Decoding the word of a command gives the command, for every operand (R71, R73, R74). -/
def Obligations.DecodeAfterEncode : Prop :=
  ∀ i : Instr, i.wellFormed = true → decode (encode i) = .command i

/-- A word that decodes is the word of its command: no bit of it is ignored (R71, R73, R74). -/
def Obligations.EncodeAfterDecode : Prop :=
  ∀ (w : HostWord) (i : Instr), decode w = .command i → encode i = w

/-- R73: a word encodes an operation exactly when `w & mask == match`, with the operands in the fields of the
table. -/
def Obligations.WordEncodesExactlyByMatchAndMask : Prop :=
  ∀ w : HostWord,
    (decode w = .command .begin ↔ w &&& 0xFFFFFFFFFFFFFFFFFFFF#80 = 0x00000000000000000001#80) ∧
    (decode w = .command (.setChannel (w.extractLsb' 16 16) (w.extractLsb' 32 16)) ↔
      w &&& 0xFFFFFFFF00000000FFFF#80 = 0x00000000000000000002#80) ∧
    (decode w = .command (.setPixel (w.extractLsb' 16 16) (w.extractLsb' 32 16) (w.extractLsb' 48 16)
        (w.extractLsb' 64 16)) ↔
      w &&& 0x0000000000000000FFFF#80 = 0x00000000000000000003#80) ∧
    (decode w = .command (.setBc (w.extractLsb' 16 7) (w.extractLsb' 32 7) (w.extractLsb' 48 7)) ↔
      w &&& 0xFFFFFF80FF80FF80FFFF#80 = 0x00000000000000000004#80) ∧
    (decode w = .command .transmit ↔ w &&& 0xFFFFFFFFFFFFFFFFFFFF#80 = 0x00000000000000000005#80) ∧
    (∀ i : Instr, decode w = .command i →
      i = .begin ∨ i = .setChannel (w.extractLsb' 16 16) (w.extractLsb' 32 16) ∨
      i = .setPixel (w.extractLsb' 16 16) (w.extractLsb' 32 16) (w.extractLsb' 48 16) (w.extractLsb' 64 16) ∨
      i = .setBc (w.extractLsb' 16 7) (w.extractLsb' 32 7) (w.extractLsb' 48 7) ∨ i = .transmit)

/-- R76, in the order of the checks of R74: which words are refused, and under which name. -/
def Obligations.IllegalWordsRefusedByName : Prop :=
  ∀ w : HostWord,
    (decode w = .refuse .reservedOpcode ↔ w.extractLsb' 0 4 = 0x0#4 ∨ 0x6#4 ≤ w.extractLsb' 0 4) ∧
    (decode w = .refuse .reservedField ↔
      (0x1#4 ≤ w.extractLsb' 0 4 ∧ w.extractLsb' 0 4 ≤ 0x5#4) ∧
      (w.extractLsb' 4 12 ≠ 0#12 ∨
        (w.extractLsb' 0 4 = 0x1#4 ∧ w.extractLsb' 16 64 ≠ 0#64) ∨
        (w.extractLsb' 0 4 = 0x2#4 ∧ w.extractLsb' 48 32 ≠ 0#32) ∨
        (w.extractLsb' 0 4 = 0x4#4 ∧ w.extractLsb' 64 16 ≠ 0#16) ∨
        (w.extractLsb' 0 4 = 0x5#4 ∧ w.extractLsb' 16 64 ≠ 0#64))) ∧
    (decode w = .refuse .bcRange ↔
      w.extractLsb' 0 4 = 0x4#4 ∧ w.extractLsb' 4 12 = 0#12 ∧ w.extractLsb' 64 16 = 0#16 ∧
      (w.extractLsb' 23 9 ≠ 0#9 ∨ w.extractLsb' 39 9 ≠ 0#9 ∨ w.extractLsb' 55 9 ≠ 0#9))

/-- Words written out from the encoding table and the vectors V-D1 to V-D14. -/
def Obligations.DecodeOfSpecWords : Prop :=
  decode 0x00000000000000000000#80 = .refuse .reservedOpcode ∧
  decode 0x00000000000000000006#80 = .refuse .reservedOpcode ∧
  decode 0x00000000000000000011#80 = .refuse .reservedField ∧
  decode 0x00000000000000000001#80 = .command .begin ∧
  decode 0x00000000000200010002#80 = .command (.setChannel 1 2) ∧
  decode 0x00040003000200010003#80 = .command (.setPixel 1 2 3 4) ∧
  decode 0x0000007F007F007F0004#80 = .command (.setBc 127 127 127) ∧
  decode 0x00000000000000800004#80 = .refuse .bcRange ∧
  decode 0x00010000000000000004#80 = .refuse .reservedField ∧
  decode 0x00000000000000000005#80 = .command .transmit

/-- R80: the worked encodings, from the text of the line to the word. -/
def Obligations.AssemblerWorkedEncodings : Prop :=
  assembleText 12 ['B', 'E', 'G', 'I', 'N'] = some [0x00000000000000000001#80] ∧
  assembleText 12 ['S', 'E', 'T', 'C', 'H', ' ', '5', ',', ' ', '0', 'x', 'F', 'F', 'F', 'F'] =
    some [0x00000000FFFF00050002#80] ∧
  assembleText 12 ['S', 'E', 'T', 'P', 'I', 'X', ' ', '5', ',', ' ', '0', 'x', '1', '2', '3', '4', ',', ' ',
      '0', 'x', '5', '6', '7', '8', ',', ' ', '0', 'x', '9', 'A', 'B', 'C'] =
    some [0x9ABC5678123400050003#80] ∧
  assembleText 12 ['S', 'E', 'T', 'B', 'C', ' ', '0', 'x', '1', '0', ',', ' ', '0', 'x', '2', '0', ',', ' ',
      '0', 'x', '3', '0'] =
    some [0x00000030002000100004#80] ∧
  assembleText 12 ['X', 'M', 'I', 'T'] = some [0x00000000000000000005#80]

/-- R79: BLANKALL stands for commands that, executed in order, leave every transmitted slot 0 and nothing else
changed. -/
def Obligations.BlankAllBlanksEveryTransmittedSlot : Prop :=
  ∀ s : State, s.config.allocOk = true → s.buf.wf = true → s.nch ≤ 65536 →
    ∃ is t, assemble s.nch .blankall = some is ∧ execAll is s = .next t ∧
      (∀ i, i < s.nch → bufRead t i = 0#16) ∧ (∀ i, s.nch ≤ i → bufRead t i = bufRead s i) ∧
      t = { s with buf := t.buf }

/-! ### The command port and the step -/

/-- A step of an idle block whose host presents the word of a command executes that command, with the word taken
from the port (the model's own list of what the host has still to present, log 1). -/
def Obligations.StepExecutesDecodedCommand : Prop :=
  ∀ (s : State) (w : HostWord) (rest : List HostWord) (i : Instr),
    s.phase = .idle → s.port = w :: rest → decode w = .command i →
      step s = exec i { s with port := rest }

/-- R176: a word that is no command sets `refused`, moves to `Refused`, changes nothing else (the port, the model's
own field of log 1, has given up the word), and in `Refused` there is no step. -/
def Obligations.UndecodableWordIsRefused : Prop :=
  (∀ (s : State) (w : HostWord) (rest : List HostWord) (r : RefuseReason),
    s.phase = .idle → s.port = w :: rest → decode w = .refuse r →
      step s = .next { s with port := rest, refused := true, phase := .refused }) ∧
  (∀ s t : State, s.phase = .refused → step s ≠ .next t)

/-- R70: commands are accepted only in `Idle`. While a transmission runs, the step neither takes nor looks at what
the host has to present; in `Faulted` and `Refused` there is no step. An idle block whose host presents nothing
waits unchanged (the model's choice, log 1). -/
def Obligations.CommandsAcceptedOnlyWhenIdle : Prop :=
  (∀ (s : State) (p : List HostWord), s.phase.busy = true →
    step { s with port := p } = mapNext (fun t => { t with port := p }) (step s)) ∧
  (∀ s t : State, s.phase = .faulted ∨ s.phase = .refused → step s ≠ .next t) ∧
  (∀ s : State, s.phase = .idle → s.port = [] → step s = .next s)

/-! ### Set-up and buffer operations -/

/-- R103: BEGIN always completes, and its result is `ALLOC_OK`. -/
def Obligations.BeginResultIsAllocOk : Prop :=
  ∀ s : State, ∃ t, exec .begin s = .next t ∧ t.beginOk = s.config.allocOk

/-- R101: the whole effect of BEGIN; `c` and `d` are the levels drawn (any, log 2), and `draws` is the model's own
count of them. -/
def Obligations.BeginEffect : Prop :=
  ∀ s : State, ∃ c d : Level,
    (s.config.allocOk = false → exec .begin s = .next { s with beginOk := false }) ∧
    (s.config.allocOk = true → ∀ clkPin datPin, s.config.mode = .bitBang clkPin datPin → s.clk = .undriven →
      exec .begin s = .next { s with
        clk := .driven c, dat := .driven d, hist := s.hist ++ [.pinsDriven c d],
        begun := true, beginOk := true, draws := s.draws + 2 }) ∧
    (s.config.allocOk = true → ∀ clkPin datPin, s.config.mode = .bitBang clkPin datPin → s.clk ≠ .undriven →
      exec .begin s = .next { s with begun := true, beginOk := true }) ∧
    (s.config.allocOk = true → s.config.mode = .hwSerial → s.begun = false →
      exec .begin s = .next { s with hist := s.hist ++ [.busInit], begun := true, beginOk := true }) ∧
    (s.config.allocOk = true → s.config.mode = .hwSerial → s.begun = true →
      exec .begin s = .next { s with beginOk := true })

/-- R101, D14: a second BEGIN changes nothing the first did not. -/
def Obligations.BeginAgainChangesNothing : Prop :=
  ∀ s t : State, exec .begin s = .next t → exec .begin t = .next t

/-- R104, R105, R106, R107: SET_CHANNEL completes and writes the slot below `NCH`, the boundary slot at `NCH`, and
nothing above; every other piece of state is unchanged, and all of it where the slot held the value already. Without a
buffer it faults. -/
def Obligations.SetChannelByIndex : Prop :=
  ∀ (s : State) (idx : BitVec 16) (val : Value), s.buf.wf = true →
    (s.config.allocOk = false → exec (.setChannel idx val) s =
      .next { s with fault := .noBuffer, faultOp := 0x2#4, phase := .faulted }) ∧
    (s.config.allocOk = true → idx.toNat < 12 * s.config.chainLength →
      ∃ t, exec (.setChannel idx val) s = .next t ∧ bufRead t idx.toNat = val ∧
        (∀ i, i ≠ idx.toNat → bufRead t i = bufRead s i) ∧ t = { s with buf := t.buf } ∧
        (bufRead s idx.toNat = val → t = s)) ∧
    (s.config.allocOk = true → idx.toNat = 12 * s.config.chainLength →
      exec (.setChannel idx val) s = .next { s with spare := val, boundaryWritten := true }) ∧
    (s.config.allocOk = true → 12 * s.config.chainLength < idx.toNat → exec (.setChannel idx val) s = .next s)

/-- R64: writing the same values twice leaves the same state as writing them once, for each of the three writing
commands, in every index range and also where the command faults. -/
def Obligations.WritesAreIdempotent : Prop :=
  ∀ s t : State, s.buf.wf = true →
    (∀ idx val, exec (.setChannel idx val) s = .next t → exec (.setChannel idx val) t = .next t) ∧
    (∀ p r g b, exec (.setPixel p r g b) s = .next t → exec (.setPixel p r g b) t = .next t) ∧
    (∀ r g b, exec (.setBc r g b) s = .next t → exec (.setBc r g b) t = .next t)

/-- R108: SET_PIXEL completes; slot `3p + k` below `NCH` gets its value, the boundary slot gets `r` exactly for the
pixel `4N`, and everything else is unchanged. Without a buffer it faults before any write. -/
def Obligations.SetPixelWritesThreeSlots : Prop :=
  ∀ (s : State) (p : BitVec 16) (r g b : Value), s.buf.wf = true →
    (s.config.allocOk = false → exec (.setPixel p r g b) s =
      .next { s with fault := .noBuffer, faultOp := 0x3#4, phase := .faulted }) ∧
    (s.config.allocOk = true → ∃ t, exec (.setPixel p r g b) s = .next t ∧
      (∀ i, i < 12 * s.config.chainLength → bufRead t i =
        if i = 3 * p.toNat then r else if i = 3 * p.toNat + 1 then g
        else if i = 3 * p.toNat + 2 then b else bufRead s i) ∧
      (∀ i, 12 * s.config.chainLength ≤ i → bufRead t i = bufRead s i) ∧
      t.spare = (if p.toNat = 4 * s.config.chainLength then r else s.spare) ∧
      t.boundaryWritten = (s.boundaryWritten || decide (p.toNat = 4 * s.config.chainLength)) ∧
      t = { s with buf := t.buf, spare := t.spare, boundaryWritten := t.boundaryWritten })

/-- R109: SET_PIXEL is three slot writes in order at exact indices, and, where the indices fit the 16 bits of
SET_CHANNEL's operand, three SET_CHANNEL commands. -/
def Obligations.SetPixelIsThreeSetChannels : Prop :=
  ∀ (s : State) (p : BitVec 16) (r g b : Value), s.config.allocOk = true →
    exec (.setPixel p r g b) s =
      .next (bufWrite (3 * p.toNat + 2) b (bufWrite (3 * p.toNat + 1) g (bufWrite (3 * p.toNat) r s))) ∧
    (3 * p.toNat + 2 < 65536 →
      exec (.setPixel p r g b) s =
        execAll [.setChannel (BitVec.ofNat 16 (3 * p.toNat)) r, .setChannel (BitVec.ofNat 16 (3 * p.toNat + 1)) g,
          .setChannel (BitVec.ofNat 16 (3 * p.toNat + 2)) b] s)

/-- R54: slot `k` of pixel `p` is slot `3p + k`, which is channel `3*(p mod 4) + k` of chip frame `p div 4`, a channel of that one chip. -/
def Obligations.PixelLiesInOneChip : Prop :=
  ∀ (p : BitVec 16) (k : Nat), k < 3 →
    pixelSlot p k = 3 * p.toNat + k ∧
    pixelSlot p k = chipSlot (p.toNat / 4) (3 * (p.toNat % 4) + k) ∧ 3 * (p.toNat % 4) + k ≤ 11

/-- R110: SET_BC completes in every state, with or without a buffer, and writes the three registers alone; and the
command word of the rule's example. -/
def Obligations.SetBcWritesThreeRegisters : Prop :=
  (∀ (s : State) (r g b : Correction), exec (.setBc r g b) s = .next { s with bcR := r, bcG := g, bcB := b }) ∧
  buildCmd 0x10#7 0x20#7 0x30#7 = 0x96C41030#32

/-- R65, R84: the values of a SET_BC are in the command word of the next TRANSMIT. -/
def Obligations.SetBcReachesNextCommandWord : Prop :=
  ∀ (s : State) (r g b : Correction), s.config.allocOk = true → s.begun = true →
    ∃ t, execAll [.setBc r g b, .transmit] s = .next t ∧
      t.cmdSnap = 0x96C00000#32 ||| (r.setWidth 32 <<< 14) ||| (g.setWidth 32 <<< 7) ||| b.setWidth 32

/-! ### The wire format -/

/-- R84: the shift-and-OR sequence equals the concatenation, and the OR form. -/
def Obligations.CommandWordIsConcatenation : Prop :=
  ∀ r g b : Correction,
    buildCmd r g b = (0b100101#6 ++ 0b10110#5 ++ r ++ g ++ b : BitVec 32) ∧
    buildCmd r g b = 0x96C00000#32 ||| (r.setWidth 32 <<< 14) ||| (g.setWidth 32 <<< 7) ||| b.setWidth 32

/-- R82, R83: the fields of the command word, its fixed header, and its first byte. -/
def Obligations.CommandWordFieldsAndHeader : Prop :=
  ∀ r g b : Correction,
    (buildCmd r g b).extractLsb' 26 6 = 0x25#6 ∧
    (buildCmd r g b).getLsbD 25 = true ∧ (buildCmd r g b).getLsbD 24 = false ∧
    (buildCmd r g b).getLsbD 23 = true ∧ (buildCmd r g b).getLsbD 22 = true ∧
    (buildCmd r g b).getLsbD 21 = false ∧
    (buildCmd r g b).extractLsb' 14 7 = r ∧ (buildCmd r g b).extractLsb' 7 7 = g ∧
    (buildCmd r g b).extractLsb' 0 7 = b ∧
    (buildCmd r g b).extractLsb' 21 11 = 0b10010110110#11 ∧
    buildCmd r g b &&& 0xFFE00000#32 = 0x96C00000#32 ∧ commandByte (buildCmd r g b) 0 = 0x96#8

/-- R89: the command word of the reset values, and its bytes in the order they are sent. -/
def Obligations.DefaultCommandWord : Prop :=
  ∀ (c : Configuration) (d : ResetDraws),
    let s := State.construct c d
    buildCmd s.bcR s.bcG s.bcB = 0x96DFFFFF#32 ∧
      (List.range 4).map (commandByte (buildCmd s.bcR s.bcG s.bcB)) = [0x96#8, 0xDF#8, 0xFF#8, 0xFF#8]

/-- R86: the four command bytes, and channel `c` at frame bytes `4 + 2*(11-c)` (high) and `5 + 2*(11-c)` (low). -/
def Obligations.FrameBytePositions : Prop :=
  ∀ (s : State) (n : Nat),
    (∀ j, j < 4 → frameByte s n j = s.cmdSnap.extractLsb' (24 - 8 * j) 8) ∧
    (∀ c, c ≤ 11 →
      frameByte s n (4 + 2 * (11 - c)) = (bufRead s (12 * n + c)).extractLsb' 8 8 ∧
      frameByte s n (5 + 2 * (11 - c)) = (bufRead s (12 * n + c)).extractLsb' 0 8)

/-- R59: the bytes of a chain transmission, each sent from its most significant bit, are the bits of the formula. -/
def Obligations.FrameBytesAreFormulaBits : Prop :=
  ∀ s : State, (chainBytes s).flatMap bitsOfByte = chainBits s

/-! ### TRANSMIT -/

/-- R132: `ALLOC_OK` is checked first, then `begun`. -/
def Obligations.TransmitChecksInOrder : Prop :=
  ∀ s : State,
    (s.config.allocOk = false → exec .transmit s =
      .next { s with fault := .noBuffer, faultOp := 0x5#4, phase := .faulted }) ∧
    (s.config.allocOk = true → s.begun = false → exec .transmit s =
      .next { s with fault := .notBegun, faultOp := 0x5#4, phase := .faulted })

/-- R133: the Start step of a TRANSMIT whose checks pass, and all it changes; no later step of the transmission builds
the command word again. -/
def Obligations.TransmitStarts : Prop :=
  (∀ s : State, s.config.allocOk = true → s.begun = true →
    exec .transmit s = .next { s with
      cmdSnap := buildCmd s.bcR s.bcG s.bcB, irqMaskReq := true, hist := s.hist ++ [.irqMask true],
      phase := .shift 0 0 }) ∧
  (∀ s t : State, s.phase.busy = true → step s = .next t → t.cmdSnap = s.cmdSnap)

/-- R135: the transitions of the state machine, what each does, and that nothing else changes: no step from Start to the
end of Settle takes a command of the host. -/
def Obligations.StateMachineTransitions : Prop :=
  ∀ s : State, s.config.allocOk = true →
    (∀ rest, s.phase = .idle → s.port = encode .transmit :: rest → s.begun = true →
      step s = .next { s with
        port := rest, cmdSnap := buildCmd s.bcR s.bcG s.bcB, irqMaskReq := true, hist := s.hist ++ [.irqMask true],
        phase := .shift 0 0 }) ∧
    (∀ n j, s.phase = .shift n j → n < s.config.chainLength →
      ∃ t, step s = .next t ∧ t.hist = s.hist ++ byteEvents s.config.mode (frameByte s n j.val) ∧
        (∀ h : j.val < 27, t.phase = .shift n ⟨j.val + 1, Nat.succ_lt_succ h⟩) ∧
        (j.val = 27 → n + 1 < s.config.chainLength → t.phase = .shift (n + 1) 0) ∧
        (j.val = 27 → n + 1 = s.config.chainLength → t.phase = .unmask) ∧
        t = { s with phase := t.phase, clk := t.clk, dat := t.dat, hist := t.hist }) ∧
    (s.phase = .unmask →
      step s = .next { s with irqMaskReq := false, hist := s.hist ++ [.irqMask false], phase := .settle }) ∧
    (s.phase = .settle →
      step s = .next { s with hist := s.hist ++ [.settleBegin s.config.settle, .settleEnd], phase := .idle })

/-- R136: in BitBang mode a byte is sent as clock low, data, clock high for each bit, bit 7 first, each write an event
whether or not it changes the level; the lines are left at High and at bit 0. -/
def Obligations.BitBangByteIsTwentyFourWrites : Prop :=
  ∀ (s : State) (v : Byte) (clkPin datPin : PinId), s.config.mode = .bitBang clkPin datPin →
    sendByte v s = { s with
      clk := .driven .high
      dat := .driven (if v.getLsbD 0 then .high else .low)
      hist := s.hist ++ ([7, 6, 5, 4, 3, 2, 1, 0].flatMap fun i =>
        [Event.clk .low, Event.dat (if v.getLsbD i then .high else .low), Event.clk .high]) }

/-- R138: in HwSerial mode a byte is handed to the bus as one event, and no line of the block moves (R37). -/
def Obligations.HwSerialByteIsOneTransfer : Prop :=
  ∀ (s : State) (v : Byte), s.config.mode = .hwSerial → sendByte v s = { s with hist := s.hist ++ [.byteXfer v] }

/-- R141, R142, R21: the Unmask step and the Settle step, and all they change. The window carries 200 microseconds in
BitBang mode and 2 in HwSerial mode. What the host's own interrupt enable is afterwards follows `HOST_IRQ_RESTORE`
(R182). -/
def Obligations.UnmaskThenSettle : Prop :=
  (∀ before : Bool, hostInterruptsAfter before = (before || decide (Config.hostIrqRestore = .reenable))) ∧
  ∀ s : State,
    (s.phase = .unmask →
      step s = .next { s with irqMaskReq := false, hist := s.hist ++ [.irqMask false], phase := .settle }) ∧
    (s.phase = .settle → ∀ clkPin datPin, s.config.mode = .bitBang clkPin datPin →
      step s = .next { s with hist := s.hist ++ [.settleBegin 200, .settleEnd], phase := .idle }) ∧
    (s.phase = .settle → s.config.mode = .hwSerial →
      step s = .next { s with hist := s.hist ++ [.settleBegin 2, .settleEnd], phase := .idle })

/-- R87: from any idle state with a buffer and a successful BEGIN, a TRANSMIT runs through to `Idle`; the history grows
by the mask, byte `t` of the chain transmission for each `t` below `28 * N` in order, the mask's release and the settle
window, and nothing else changes but the snapshot and the lines. -/
def Obligations.TransmitSendsTheWholeChain : Prop :=
  ∀ (s : State) (rest : List HostWord), s.phase = .idle → s.port = encode .transmit :: rest →
    s.config.allocOk = true → s.begun = true → 1 ≤ s.config.chainLength →
      ∃ t : State, core.run (transmitSteps s) s = .next t ∧ t.hist = s.hist ++ transmitEvents s ∧
        t = { s with
          phase := .idle, port := rest, cmdSnap := buildCmd s.bcR s.bcG s.bcB, irqMaskReq := false,
          clk := t.clk, dat := t.dat, hist := t.hist }

/-- R139: in either mode the bits one TRANSMIT delivers (the data levels at the rising clock edges, or the bits of the
bytes handed to the bus) are the `224 * N` bits of the formula of R59. -/
def Obligations.BothModesDeliverTheFormulaBits : Prop :=
  ∀ (s : State) (rest : List HostWord), s.phase = .idle → s.port = encode .transmit :: rest →
    s.config.allocOk = true → s.begun = true → 1 ≤ s.config.chainLength →
      ∃ (t : State) (es : List Event), core.run (transmitSteps s) s = .next t ∧ t.hist = s.hist ++ es ∧
        deliveredBits s.config.mode s.clk s.dat es = chainBits (withCommandWord s)

/-- R148: how many events one successful TRANSMIT emits in each mode, and of which kind. -/
def Obligations.TransmitEventCount : Prop :=
  ∀ (s : State) (rest : List HostWord), s.phase = .idle → s.port = encode .transmit :: rest →
    s.config.allocOk = true → s.begun = true → 1 ≤ s.config.chainLength →
      ∃ (t : State) (es : List Event), core.run (transmitSteps s) s = .next t ∧ t.hist = s.hist ++ es ∧
        (∃ mid, es = [.irqMask true] ++ mid ++ [.irqMask false, .settleBegin s.config.settle, .settleEnd] ∧
          (∀ clkPin datPin, s.config.mode = .bitBang clkPin datPin →
            (∀ e ∈ mid, e.writesPin = true) ∧ mid.length = 3 * 8 * 28 * s.config.chainLength ∧
            es.length = 672 * s.config.chainLength + 4) ∧
          (s.config.mode = .hwSerial →
            (∀ e ∈ mid, e.transfersByte = true) ∧ mid.length = 28 * s.config.chainLength ∧
            es.length = 28 * s.config.chainLength + 4))

/-- R149: after a BitBang TRANSMIT the clock is High and the data line holds bit 0 of channel 0 of the last frame. -/
def Obligations.LinesAfterBitBangTransmit : Prop :=
  ∀ (s : State) (rest : List HostWord) (clkPin datPin : PinId), s.phase = .idle →
    s.port = encode .transmit :: rest → s.config.allocOk = true → s.begun = true → 1 ≤ s.config.chainLength →
    s.config.mode = .bitBang clkPin datPin →
      ∃ t : State, core.run (transmitSteps s) s = .next t ∧ t.clk = .driven .high ∧
        t.dat = .driven (levelOf ((bufRead s (12 * (s.config.chainLength - 1))).getLsbD 0))

/-- R152: two TRANSMITs in a row append the same events twice, so they send the same bytes, each followed by its settle
window. -/
def Obligations.RepeatedTransmitSendsTheSame : Prop :=
  ∀ (s : State) (rest : List HostWord), s.phase = .idle →
    s.port = encode .transmit :: encode .transmit :: rest →
    s.config.allocOk = true → s.begun = true → 1 ≤ s.config.chainLength →
      ∃ t : State, core.run (transmitSteps s + transmitSteps s) s = .next t ∧
        t.hist = s.hist ++ (transmitEvents s ++ transmitEvents s) ∧ t.phase = .idle ∧ t.port = rest

/-- R147: no step of a transmission writes the buffer, the boundary slot, a correction register or a status bit. -/
def Obligations.TransmitWritesNoBufferOrStatus : Prop :=
  ∀ s t : State,
    (s.phase.busy = true → step s = .next t →
      t = { s with phase := t.phase, clk := t.clk, dat := t.dat, irqMaskReq := t.irqMaskReq, hist := t.hist }) ∧
    (exec .transmit s = .next t → t.phase ≠ .faulted →
      t = { s with cmdSnap := t.cmdSnap, phase := t.phase, irqMaskReq := t.irqMaskReq, hist := t.hist })

/-- R36, R142, R149: a line that is driven moves only in a `Shift` step; a second BEGIN, every other command, Unmask and
Settle hold both lines. -/
def Obligations.DrivenLinesHoldOutsideShift : Prop :=
  ∀ s t : State, step s = .next t → (∀ n j, s.phase ≠ .shift n j) → s.clk ≠ .undriven →
    (∀ clkPin datPin, s.config.mode = .bitBang clkPin datPin → t.clk = s.clk ∧ t.dat = s.dat)

/-! ### Faults -/

/-- R172: NoBuffer, code 1, is raised by SET_CHANNEL, SET_PIXEL and TRANSMIT when there is no buffer, with their opcode
recorded; BEGIN and SET_BC do not raise it, and no command raises it where there is a buffer. -/
def Obligations.NoBufferRaisedExactlyWithoutBuffer : Prop :=
  faultCode .noBuffer = 1 ∧
  (∀ s : State, s.config.allocOk = false →
    (∀ idx val, exec (.setChannel idx val) s =
      .next { s with fault := .noBuffer, faultOp := 0x2#4, phase := .faulted }) ∧
    (∀ p r g b, exec (.setPixel p r g b) s =
      .next { s with fault := .noBuffer, faultOp := 0x3#4, phase := .faulted }) ∧
    exec .transmit s = .next { s with fault := .noBuffer, faultOp := 0x5#4, phase := .faulted } ∧
    (exec .begin s = .next { s with beginOk := false }) ∧
    (∀ r g b, exec (.setBc r g b) s = .next { s with bcR := r, bcG := g, bcB := b })) ∧
  (∀ (i : Instr) (s t : State), s.config.allocOk = true → exec i s = .next t → t.fault = .noBuffer →
    s.fault = .noBuffer)

/-- R173: NotBegun, code 2, is raised by TRANSMIT alone, when there is a buffer and BEGIN has not succeeded. -/
def Obligations.NotBegunRaisedOnlyByTransmit : Prop :=
  faultCode .notBegun = 2 ∧
  (∀ s : State, s.config.allocOk = true → s.begun = false →
    exec .transmit s = .next { s with fault := .notBegun, faultOp := 0x5#4, phase := .faulted }) ∧
  (∀ (i : Instr) (s t : State), exec i s = .next t → t.fault = .notBegun → s.fault ≠ .notBegun →
    i = .transmit ∧ s.config.allocOk = true ∧ s.begun = false)

/-- R171, R175: a command that faults changes `fault`, `fault_op` and `phase` and nothing else, and in `Faulted` there is
no step. -/
def Obligations.FaultsArePrecise : Prop :=
  (∀ (i : Instr) (s t : State), exec i s = .next t → s.phase ≠ .faulted → t.phase = .faulted →
    t = { s with fault := t.fault, faultOp := i.opcode, phase := .faulted } ∧ t.fault ≠ .none) ∧
  (∀ s t : State, s.phase = .faulted → step s ≠ .next t)

/-! ### Whole-machine rules -/

/-- R200: every piece of state at the value of the reset table, for every configuration reset accepts and whatever the
free draws; a configuration outside `1 <= N <= N_MAX` is refused (R7). Two clauses are the model's choice, not the
table's: in HwSerial mode `clk` and `dat` are `Undriven` (log 9; the table's row is BitBang's, and R37 does not track the
lines), and without ALLOC_OK the buffer and `spare` are there all the same (log 6; the spec has neither then). -/
def Obligations.ResetLeavesTableValues : Prop :=
  ∀ (c : Configuration) (d : ResetDraws),
    (c.chainLength = 0 ∨ Config.nMax < c.chainLength → State.resetWith c d = none) ∧
    (1 ≤ c.chainLength → c.chainLength ≤ Config.nMax →
      ∃ s, State.resetWith c d = some s ∧ s.config = c ∧ (∀ i, bufRead s i = 0#16) ∧ s.spare = d.spare ∧
        s.bcR = 127#7 ∧ s.bcG = 127#7 ∧ s.bcB = 127#7 ∧ s.begun = false ∧ s.beginOk = false ∧
        s.boundaryWritten = false ∧ s.fault = .none ∧ s.faultOp = 0x0#4 ∧ s.refused = false ∧ s.phase = .idle ∧
        s.cmdSnap = d.cmdSnap ∧ s.clk = .undriven ∧ s.dat = .undriven ∧ s.irqMaskReq = false ∧ s.hist = [])

/-- The invariant holds after reset, for every configuration reset accepts and whatever the free draws. `State.reset`
itself rests on the model's choices of logs 4 and 5, and the invariant's clauses on lines in HwSerial mode and on the buffer
without ALLOC_OK on those of logs 9 and 6. -/
def Obligations.InvariantAtReset : Prop :=
  Inv State.reset ∧ ∀ (c : Configuration) (d : ResetDraws) (s : State), State.resetWith c d = some s → Inv s

/-- Every step keeps the invariant of a sound state, from every state that meets it. Its clauses on lines in HwSerial mode
and on the buffer without ALLOC_OK are the model's choices (logs 9 and 6). -/
def Obligations.StepKeepsInvariant : Prop :=
  ∀ s t : State, Inv s → step s = .next t → Inv t

/-- R140: the mask request is 1 exactly in `Shift` and `Unmask`, in both modes: every step keeps that. -/
def Obligations.MaskRequestFollowsPhase : Prop :=
  ∀ s t : State, MaskInv s → step s = .next t → MaskInv t

/-- R142, R143: every step keeps the latch discipline of the history. -/
def Obligations.StepKeepsLatchDiscipline : Prop :=
  ∀ s t : State, LatchInv s → step s = .next t → LatchInv t

/-- R143: in a history that keeps the discipline, between a clock event and a later one that the release of the mask
separates, the settle window `SettleBegin(T_SETTLE)`, `SettleEnd` stands. That a run's history keeps the discipline is
`StepKeepsLatchDiscipline`, with `InvariantAtReset`. -/
def Obligations.SettleWindowBetweenTransmissions : Prop :=
  ∀ (s : State) (before between after : List Event) (e e' : Event), LatchInv s →
    s.hist = before ++ e :: between ++ e' :: after → e.clocks = true → e'.clocks = true →
    Event.irqMask false ∈ between →
      ∃ x y, between = x ++ [.settleBegin s.config.settle, .settleEnd] ++ y

/-- R154: a sound state in none of the two quiescent phases always has its next step. R154 promises it in `Shift`, `Unmask`
and `Settle`; in `Idle` a presented word is taken (R70), and with nothing presented the block's step waits unchanged, which
is the model's choice (log 1). -/
def Obligations.HealthyBlockAlwaysSteps : Prop :=
  ∀ s : State, Inv s → s.phase ≠ .faulted → s.phase ≠ .refused → ∃ t, step s = .next t

/-- R154, R180: a transmission under way in a sound state always comes back to `Idle`, within the steps that are left. -/
def Obligations.BusyBlockReturnsToIdle : Prop :=
  ∀ s : State, Inv s → s.phase.busy = true →
    ∃ (k : Nat) (t : State), k < transmitSteps s ∧ core.run k s = .next t ∧ t.phase = .idle

/-- R20, R203: no step changes `N`, `MODE` or `ALLOC_OK`. -/
def Obligations.ConfigurationNeverChanges : Prop :=
  ∀ s t : State, step s = .next t → t.config = s.config

/-- R11, R39: events are only ever appended to the history. -/
def Obligations.HistoryOnlyGrows : Prop :=
  ∀ s t : State, step s = .next t → ∃ es, t.hist = s.hist ++ es

/-- R27, R29, R30, R31: `begun`, `boundary_written` and `refused` are never cleared by a step, and from a sound state with
a fault recorded there is no step that could rewrite it (R171). That the model's step answers `haltedByFault` there, where
the spec has no step, is the model's deduction (log 7). -/
def Obligations.StickyBitsStay : Prop :=
  (∀ s t : State, step s = .next t →
    (s.begun = true → t.begun = true) ∧ (s.boundaryWritten = true → t.boundaryWritten = true) ∧
    (s.refused = true → t.refused = true)) ∧
  (∀ s : State, FaultInv s → s.fault ≠ .none → step s = .fault .haltedByFault)

/-- R150: the boundary slot never reaches the wire: with another value in it a step does the same, whatever it does, but
for the boundary slot itself. -/
def Obligations.SpareNeverReachesTheWire : Prop :=
  ∀ (s : State) (v : Value), ∃ v' : Value,
    step { s with spare := v } = mapNext (fun t => { t with spare := v' }) (step s)

/-- R23, R52: the host cannot read the buffer: with other contents in it, a step shows the host the same and leaves the
same state, but for the buffer, the lines and the history. What the host sees is `hostView`, which leaves `begun` out (the
model's choice, log 19); `begun` is the same all the same, by the last clause. -/
def Obligations.HostCannotReadBuffer : Prop :=
  ∀ (s t : State) (m : Memory), step s = .next t →
    ∃ u, step { s with buf := m } = .next u ∧ hostView u = hostView t ∧
      u = { t with buf := u.buf, clk := u.clk, dat := u.dat, hist := u.hist }
end

