-- ==== Sys2Proof/Laws/State.lean ====
section
/-! SUPPORT. For each update of State, what each field holds after it (10_state.md; Machine/Flags.lean and
Machine/Ops.lean), so that no later proof unfolds an update. -/

namespace Sys2Proof.Machine

variable (s : State)

/-! ### `State.withBeginOk` -/

@[simp] theorem State.withBeginOk_config (b : Bool) : (s.withBeginOk b).config = s.config := rfl
@[simp] theorem State.withBeginOk_buf (b : Bool) : (s.withBeginOk b).buf = s.buf := rfl
@[simp] theorem State.withBeginOk_spare (b : Bool) : (s.withBeginOk b).spare = s.spare := rfl
@[simp] theorem State.withBeginOk_bcR (b : Bool) : (s.withBeginOk b).bcR = s.bcR := rfl
@[simp] theorem State.withBeginOk_bcG (b : Bool) : (s.withBeginOk b).bcG = s.bcG := rfl
@[simp] theorem State.withBeginOk_bcB (b : Bool) : (s.withBeginOk b).bcB = s.bcB := rfl
@[simp] theorem State.withBeginOk_begun (b : Bool) : (s.withBeginOk b).begun = s.begun := rfl
@[simp] theorem State.withBeginOk_beginOk (b : Bool) : (s.withBeginOk b).beginOk = b := rfl
@[simp] theorem State.withBeginOk_boundaryWritten (b : Bool) : (s.withBeginOk b).boundaryWritten = s.boundaryWritten := rfl
@[simp] theorem State.withBeginOk_fault (b : Bool) : (s.withBeginOk b).fault = s.fault := rfl
@[simp] theorem State.withBeginOk_faultOp (b : Bool) : (s.withBeginOk b).faultOp = s.faultOp := rfl
@[simp] theorem State.withBeginOk_refused (b : Bool) : (s.withBeginOk b).refused = s.refused := rfl
@[simp] theorem State.withBeginOk_phase (b : Bool) : (s.withBeginOk b).phase = s.phase := rfl
@[simp] theorem State.withBeginOk_cmdSnap (b : Bool) : (s.withBeginOk b).cmdSnap = s.cmdSnap := rfl
@[simp] theorem State.withBeginOk_clk (b : Bool) : (s.withBeginOk b).clk = s.clk := rfl
@[simp] theorem State.withBeginOk_dat (b : Bool) : (s.withBeginOk b).dat = s.dat := rfl
@[simp] theorem State.withBeginOk_irqMaskReq (b : Bool) : (s.withBeginOk b).irqMaskReq = s.irqMaskReq := rfl
@[simp] theorem State.withBeginOk_hist (b : Bool) : (s.withBeginOk b).hist = s.hist := rfl
@[simp] theorem State.withBeginOk_port (b : Bool) : (s.withBeginOk b).port = s.port := rfl
@[simp] theorem State.withBeginOk_draws (b : Bool) : (s.withBeginOk b).draws = s.draws := rfl

/-! ### `State.markBegun` -/

@[simp] theorem State.markBegun_config : (s.markBegun).config = s.config := rfl
@[simp] theorem State.markBegun_buf : (s.markBegun).buf = s.buf := rfl
@[simp] theorem State.markBegun_spare : (s.markBegun).spare = s.spare := rfl
@[simp] theorem State.markBegun_bcR : (s.markBegun).bcR = s.bcR := rfl
@[simp] theorem State.markBegun_bcG : (s.markBegun).bcG = s.bcG := rfl
@[simp] theorem State.markBegun_bcB : (s.markBegun).bcB = s.bcB := rfl
@[simp] theorem State.markBegun_begun : (s.markBegun).begun = true := rfl
@[simp] theorem State.markBegun_beginOk : (s.markBegun).beginOk = s.beginOk := rfl
@[simp] theorem State.markBegun_boundaryWritten : (s.markBegun).boundaryWritten = s.boundaryWritten := rfl
@[simp] theorem State.markBegun_fault : (s.markBegun).fault = s.fault := rfl
@[simp] theorem State.markBegun_faultOp : (s.markBegun).faultOp = s.faultOp := rfl
@[simp] theorem State.markBegun_refused : (s.markBegun).refused = s.refused := rfl
@[simp] theorem State.markBegun_phase : (s.markBegun).phase = s.phase := rfl
@[simp] theorem State.markBegun_cmdSnap : (s.markBegun).cmdSnap = s.cmdSnap := rfl
@[simp] theorem State.markBegun_clk : (s.markBegun).clk = s.clk := rfl
@[simp] theorem State.markBegun_dat : (s.markBegun).dat = s.dat := rfl
@[simp] theorem State.markBegun_irqMaskReq : (s.markBegun).irqMaskReq = s.irqMaskReq := rfl
@[simp] theorem State.markBegun_hist : (s.markBegun).hist = s.hist := rfl
@[simp] theorem State.markBegun_port : (s.markBegun).port = s.port := rfl
@[simp] theorem State.markBegun_draws : (s.markBegun).draws = s.draws := rfl

/-! ### `State.writeBoundary` -/

@[simp] theorem State.writeBoundary_config (v : Value) : (s.writeBoundary v).config = s.config := rfl
@[simp] theorem State.writeBoundary_buf (v : Value) : (s.writeBoundary v).buf = s.buf := rfl
@[simp] theorem State.writeBoundary_spare (v : Value) : (s.writeBoundary v).spare = v := rfl
@[simp] theorem State.writeBoundary_bcR (v : Value) : (s.writeBoundary v).bcR = s.bcR := rfl
@[simp] theorem State.writeBoundary_bcG (v : Value) : (s.writeBoundary v).bcG = s.bcG := rfl
@[simp] theorem State.writeBoundary_bcB (v : Value) : (s.writeBoundary v).bcB = s.bcB := rfl
@[simp] theorem State.writeBoundary_begun (v : Value) : (s.writeBoundary v).begun = s.begun := rfl
@[simp] theorem State.writeBoundary_beginOk (v : Value) : (s.writeBoundary v).beginOk = s.beginOk := rfl
@[simp] theorem State.writeBoundary_boundaryWritten (v : Value) : (s.writeBoundary v).boundaryWritten = true := rfl
@[simp] theorem State.writeBoundary_fault (v : Value) : (s.writeBoundary v).fault = s.fault := rfl
@[simp] theorem State.writeBoundary_faultOp (v : Value) : (s.writeBoundary v).faultOp = s.faultOp := rfl
@[simp] theorem State.writeBoundary_refused (v : Value) : (s.writeBoundary v).refused = s.refused := rfl
@[simp] theorem State.writeBoundary_phase (v : Value) : (s.writeBoundary v).phase = s.phase := rfl
@[simp] theorem State.writeBoundary_cmdSnap (v : Value) : (s.writeBoundary v).cmdSnap = s.cmdSnap := rfl
@[simp] theorem State.writeBoundary_clk (v : Value) : (s.writeBoundary v).clk = s.clk := rfl
@[simp] theorem State.writeBoundary_dat (v : Value) : (s.writeBoundary v).dat = s.dat := rfl
@[simp] theorem State.writeBoundary_irqMaskReq (v : Value) : (s.writeBoundary v).irqMaskReq = s.irqMaskReq := rfl
@[simp] theorem State.writeBoundary_hist (v : Value) : (s.writeBoundary v).hist = s.hist := rfl
@[simp] theorem State.writeBoundary_port (v : Value) : (s.writeBoundary v).port = s.port := rfl
@[simp] theorem State.writeBoundary_draws (v : Value) : (s.writeBoundary v).draws = s.draws := rfl

/-! ### `State.recordFault` -/

@[simp] theorem State.recordFault_config (c : FaultCause) (op : Opcode) : (s.recordFault c op).config = s.config := rfl
@[simp] theorem State.recordFault_buf (c : FaultCause) (op : Opcode) : (s.recordFault c op).buf = s.buf := rfl
@[simp] theorem State.recordFault_spare (c : FaultCause) (op : Opcode) : (s.recordFault c op).spare = s.spare := rfl
@[simp] theorem State.recordFault_bcR (c : FaultCause) (op : Opcode) : (s.recordFault c op).bcR = s.bcR := rfl
@[simp] theorem State.recordFault_bcG (c : FaultCause) (op : Opcode) : (s.recordFault c op).bcG = s.bcG := rfl
@[simp] theorem State.recordFault_bcB (c : FaultCause) (op : Opcode) : (s.recordFault c op).bcB = s.bcB := rfl
@[simp] theorem State.recordFault_begun (c : FaultCause) (op : Opcode) : (s.recordFault c op).begun = s.begun := rfl
@[simp] theorem State.recordFault_beginOk (c : FaultCause) (op : Opcode) : (s.recordFault c op).beginOk = s.beginOk := rfl
@[simp] theorem State.recordFault_boundaryWritten (c : FaultCause) (op : Opcode) : (s.recordFault c op).boundaryWritten = s.boundaryWritten := rfl
@[simp] theorem State.recordFault_fault (c : FaultCause) (op : Opcode) : (s.recordFault c op).fault = c := rfl
@[simp] theorem State.recordFault_faultOp (c : FaultCause) (op : Opcode) : (s.recordFault c op).faultOp = op := rfl
@[simp] theorem State.recordFault_refused (c : FaultCause) (op : Opcode) : (s.recordFault c op).refused = s.refused := rfl
@[simp] theorem State.recordFault_phase (c : FaultCause) (op : Opcode) : (s.recordFault c op).phase = s.phase := rfl
@[simp] theorem State.recordFault_cmdSnap (c : FaultCause) (op : Opcode) : (s.recordFault c op).cmdSnap = s.cmdSnap := rfl
@[simp] theorem State.recordFault_clk (c : FaultCause) (op : Opcode) : (s.recordFault c op).clk = s.clk := rfl
@[simp] theorem State.recordFault_dat (c : FaultCause) (op : Opcode) : (s.recordFault c op).dat = s.dat := rfl
@[simp] theorem State.recordFault_irqMaskReq (c : FaultCause) (op : Opcode) : (s.recordFault c op).irqMaskReq = s.irqMaskReq := rfl
@[simp] theorem State.recordFault_hist (c : FaultCause) (op : Opcode) : (s.recordFault c op).hist = s.hist := rfl
@[simp] theorem State.recordFault_port (c : FaultCause) (op : Opcode) : (s.recordFault c op).port = s.port := rfl
@[simp] theorem State.recordFault_draws (c : FaultCause) (op : Opcode) : (s.recordFault c op).draws = s.draws := rfl

/-! ### `State.markRefused` -/

@[simp] theorem State.markRefused_config : (s.markRefused).config = s.config := rfl
@[simp] theorem State.markRefused_buf : (s.markRefused).buf = s.buf := rfl
@[simp] theorem State.markRefused_spare : (s.markRefused).spare = s.spare := rfl
@[simp] theorem State.markRefused_bcR : (s.markRefused).bcR = s.bcR := rfl
@[simp] theorem State.markRefused_bcG : (s.markRefused).bcG = s.bcG := rfl
@[simp] theorem State.markRefused_bcB : (s.markRefused).bcB = s.bcB := rfl
@[simp] theorem State.markRefused_begun : (s.markRefused).begun = s.begun := rfl
@[simp] theorem State.markRefused_beginOk : (s.markRefused).beginOk = s.beginOk := rfl
@[simp] theorem State.markRefused_boundaryWritten : (s.markRefused).boundaryWritten = s.boundaryWritten := rfl
@[simp] theorem State.markRefused_fault : (s.markRefused).fault = s.fault := rfl
@[simp] theorem State.markRefused_faultOp : (s.markRefused).faultOp = s.faultOp := rfl
@[simp] theorem State.markRefused_refused : (s.markRefused).refused = true := rfl
@[simp] theorem State.markRefused_phase : (s.markRefused).phase = s.phase := rfl
@[simp] theorem State.markRefused_cmdSnap : (s.markRefused).cmdSnap = s.cmdSnap := rfl
@[simp] theorem State.markRefused_clk : (s.markRefused).clk = s.clk := rfl
@[simp] theorem State.markRefused_dat : (s.markRefused).dat = s.dat := rfl
@[simp] theorem State.markRefused_irqMaskReq : (s.markRefused).irqMaskReq = s.irqMaskReq := rfl
@[simp] theorem State.markRefused_hist : (s.markRefused).hist = s.hist := rfl
@[simp] theorem State.markRefused_port : (s.markRefused).port = s.port := rfl
@[simp] theorem State.markRefused_draws : (s.markRefused).draws = s.draws := rfl

/-! ### `State.emit` -/

@[simp] theorem State.emit_config (e : Event) : (s.emit e).config = s.config := rfl
@[simp] theorem State.emit_buf (e : Event) : (s.emit e).buf = s.buf := rfl
@[simp] theorem State.emit_spare (e : Event) : (s.emit e).spare = s.spare := rfl
@[simp] theorem State.emit_bcR (e : Event) : (s.emit e).bcR = s.bcR := rfl
@[simp] theorem State.emit_bcG (e : Event) : (s.emit e).bcG = s.bcG := rfl
@[simp] theorem State.emit_bcB (e : Event) : (s.emit e).bcB = s.bcB := rfl
@[simp] theorem State.emit_begun (e : Event) : (s.emit e).begun = s.begun := rfl
@[simp] theorem State.emit_beginOk (e : Event) : (s.emit e).beginOk = s.beginOk := rfl
@[simp] theorem State.emit_boundaryWritten (e : Event) : (s.emit e).boundaryWritten = s.boundaryWritten := rfl
@[simp] theorem State.emit_fault (e : Event) : (s.emit e).fault = s.fault := rfl
@[simp] theorem State.emit_faultOp (e : Event) : (s.emit e).faultOp = s.faultOp := rfl
@[simp] theorem State.emit_refused (e : Event) : (s.emit e).refused = s.refused := rfl
@[simp] theorem State.emit_phase (e : Event) : (s.emit e).phase = s.phase := rfl
@[simp] theorem State.emit_cmdSnap (e : Event) : (s.emit e).cmdSnap = s.cmdSnap := rfl
@[simp] theorem State.emit_clk (e : Event) : (s.emit e).clk = s.clk := rfl
@[simp] theorem State.emit_dat (e : Event) : (s.emit e).dat = s.dat := rfl
@[simp] theorem State.emit_irqMaskReq (e : Event) : (s.emit e).irqMaskReq = s.irqMaskReq := rfl
@[simp] theorem State.emit_hist (e : Event) : (s.emit e).hist = s.hist ++ [e] := rfl
@[simp] theorem State.emit_port (e : Event) : (s.emit e).port = s.port := rfl
@[simp] theorem State.emit_draws (e : Event) : (s.emit e).draws = s.draws := rfl

/-! ### `State.goto` -/

@[simp] theorem State.goto_config (p : Phase) : (s.goto p).config = s.config := rfl
@[simp] theorem State.goto_buf (p : Phase) : (s.goto p).buf = s.buf := rfl
@[simp] theorem State.goto_spare (p : Phase) : (s.goto p).spare = s.spare := rfl
@[simp] theorem State.goto_bcR (p : Phase) : (s.goto p).bcR = s.bcR := rfl
@[simp] theorem State.goto_bcG (p : Phase) : (s.goto p).bcG = s.bcG := rfl
@[simp] theorem State.goto_bcB (p : Phase) : (s.goto p).bcB = s.bcB := rfl
@[simp] theorem State.goto_begun (p : Phase) : (s.goto p).begun = s.begun := rfl
@[simp] theorem State.goto_beginOk (p : Phase) : (s.goto p).beginOk = s.beginOk := rfl
@[simp] theorem State.goto_boundaryWritten (p : Phase) : (s.goto p).boundaryWritten = s.boundaryWritten := rfl
@[simp] theorem State.goto_fault (p : Phase) : (s.goto p).fault = s.fault := rfl
@[simp] theorem State.goto_faultOp (p : Phase) : (s.goto p).faultOp = s.faultOp := rfl
@[simp] theorem State.goto_refused (p : Phase) : (s.goto p).refused = s.refused := rfl
@[simp] theorem State.goto_phase (p : Phase) : (s.goto p).phase = p := rfl
@[simp] theorem State.goto_cmdSnap (p : Phase) : (s.goto p).cmdSnap = s.cmdSnap := rfl
@[simp] theorem State.goto_clk (p : Phase) : (s.goto p).clk = s.clk := rfl
@[simp] theorem State.goto_dat (p : Phase) : (s.goto p).dat = s.dat := rfl
@[simp] theorem State.goto_irqMaskReq (p : Phase) : (s.goto p).irqMaskReq = s.irqMaskReq := rfl
@[simp] theorem State.goto_hist (p : Phase) : (s.goto p).hist = s.hist := rfl
@[simp] theorem State.goto_port (p : Phase) : (s.goto p).port = s.port := rfl
@[simp] theorem State.goto_draws (p : Phase) : (s.goto p).draws = s.draws := rfl

/-! ### `writeClk` -/

@[simp] theorem writeClk_config (l : Level) : (writeClk l s).config = s.config := rfl
@[simp] theorem writeClk_buf (l : Level) : (writeClk l s).buf = s.buf := rfl
@[simp] theorem writeClk_spare (l : Level) : (writeClk l s).spare = s.spare := rfl
@[simp] theorem writeClk_bcR (l : Level) : (writeClk l s).bcR = s.bcR := rfl
@[simp] theorem writeClk_bcG (l : Level) : (writeClk l s).bcG = s.bcG := rfl
@[simp] theorem writeClk_bcB (l : Level) : (writeClk l s).bcB = s.bcB := rfl
@[simp] theorem writeClk_begun (l : Level) : (writeClk l s).begun = s.begun := rfl
@[simp] theorem writeClk_beginOk (l : Level) : (writeClk l s).beginOk = s.beginOk := rfl
@[simp] theorem writeClk_boundaryWritten (l : Level) : (writeClk l s).boundaryWritten = s.boundaryWritten := rfl
@[simp] theorem writeClk_fault (l : Level) : (writeClk l s).fault = s.fault := rfl
@[simp] theorem writeClk_faultOp (l : Level) : (writeClk l s).faultOp = s.faultOp := rfl
@[simp] theorem writeClk_refused (l : Level) : (writeClk l s).refused = s.refused := rfl
@[simp] theorem writeClk_phase (l : Level) : (writeClk l s).phase = s.phase := rfl
@[simp] theorem writeClk_cmdSnap (l : Level) : (writeClk l s).cmdSnap = s.cmdSnap := rfl
@[simp] theorem writeClk_clk (l : Level) : (writeClk l s).clk = .driven l := rfl
@[simp] theorem writeClk_dat (l : Level) : (writeClk l s).dat = s.dat := rfl
@[simp] theorem writeClk_irqMaskReq (l : Level) : (writeClk l s).irqMaskReq = s.irqMaskReq := rfl
@[simp] theorem writeClk_hist (l : Level) : (writeClk l s).hist = s.hist ++ [.clk l] := rfl
@[simp] theorem writeClk_port (l : Level) : (writeClk l s).port = s.port := rfl
@[simp] theorem writeClk_draws (l : Level) : (writeClk l s).draws = s.draws := rfl

/-! ### `writeDat` -/

@[simp] theorem writeDat_config (l : Level) : (writeDat l s).config = s.config := rfl
@[simp] theorem writeDat_buf (l : Level) : (writeDat l s).buf = s.buf := rfl
@[simp] theorem writeDat_spare (l : Level) : (writeDat l s).spare = s.spare := rfl
@[simp] theorem writeDat_bcR (l : Level) : (writeDat l s).bcR = s.bcR := rfl
@[simp] theorem writeDat_bcG (l : Level) : (writeDat l s).bcG = s.bcG := rfl
@[simp] theorem writeDat_bcB (l : Level) : (writeDat l s).bcB = s.bcB := rfl
@[simp] theorem writeDat_begun (l : Level) : (writeDat l s).begun = s.begun := rfl
@[simp] theorem writeDat_beginOk (l : Level) : (writeDat l s).beginOk = s.beginOk := rfl
@[simp] theorem writeDat_boundaryWritten (l : Level) : (writeDat l s).boundaryWritten = s.boundaryWritten := rfl
@[simp] theorem writeDat_fault (l : Level) : (writeDat l s).fault = s.fault := rfl
@[simp] theorem writeDat_faultOp (l : Level) : (writeDat l s).faultOp = s.faultOp := rfl
@[simp] theorem writeDat_refused (l : Level) : (writeDat l s).refused = s.refused := rfl
@[simp] theorem writeDat_phase (l : Level) : (writeDat l s).phase = s.phase := rfl
@[simp] theorem writeDat_cmdSnap (l : Level) : (writeDat l s).cmdSnap = s.cmdSnap := rfl
@[simp] theorem writeDat_clk (l : Level) : (writeDat l s).clk = s.clk := rfl
@[simp] theorem writeDat_dat (l : Level) : (writeDat l s).dat = .driven l := rfl
@[simp] theorem writeDat_irqMaskReq (l : Level) : (writeDat l s).irqMaskReq = s.irqMaskReq := rfl
@[simp] theorem writeDat_hist (l : Level) : (writeDat l s).hist = s.hist ++ [.dat l] := rfl
@[simp] theorem writeDat_port (l : Level) : (writeDat l s).port = s.port := rfl
@[simp] theorem writeDat_draws (l : Level) : (writeDat l s).draws = s.draws := rfl

/-! ### `setIrqMask` -/

@[simp] theorem setIrqMask_config (b : Bool) : (setIrqMask b s).config = s.config := rfl
@[simp] theorem setIrqMask_buf (b : Bool) : (setIrqMask b s).buf = s.buf := rfl
@[simp] theorem setIrqMask_spare (b : Bool) : (setIrqMask b s).spare = s.spare := rfl
@[simp] theorem setIrqMask_bcR (b : Bool) : (setIrqMask b s).bcR = s.bcR := rfl
@[simp] theorem setIrqMask_bcG (b : Bool) : (setIrqMask b s).bcG = s.bcG := rfl
@[simp] theorem setIrqMask_bcB (b : Bool) : (setIrqMask b s).bcB = s.bcB := rfl
@[simp] theorem setIrqMask_begun (b : Bool) : (setIrqMask b s).begun = s.begun := rfl
@[simp] theorem setIrqMask_beginOk (b : Bool) : (setIrqMask b s).beginOk = s.beginOk := rfl
@[simp] theorem setIrqMask_boundaryWritten (b : Bool) : (setIrqMask b s).boundaryWritten = s.boundaryWritten := rfl
@[simp] theorem setIrqMask_fault (b : Bool) : (setIrqMask b s).fault = s.fault := rfl
@[simp] theorem setIrqMask_faultOp (b : Bool) : (setIrqMask b s).faultOp = s.faultOp := rfl
@[simp] theorem setIrqMask_refused (b : Bool) : (setIrqMask b s).refused = s.refused := rfl
@[simp] theorem setIrqMask_phase (b : Bool) : (setIrqMask b s).phase = s.phase := rfl
@[simp] theorem setIrqMask_cmdSnap (b : Bool) : (setIrqMask b s).cmdSnap = s.cmdSnap := rfl
@[simp] theorem setIrqMask_clk (b : Bool) : (setIrqMask b s).clk = s.clk := rfl
@[simp] theorem setIrqMask_dat (b : Bool) : (setIrqMask b s).dat = s.dat := rfl
@[simp] theorem setIrqMask_irqMaskReq (b : Bool) : (setIrqMask b s).irqMaskReq = b := rfl
@[simp] theorem setIrqMask_hist (b : Bool) : (setIrqMask b s).hist = s.hist ++ [.irqMask b] := rfl
@[simp] theorem setIrqMask_port (b : Bool) : (setIrqMask b s).port = s.port := rfl
@[simp] theorem setIrqMask_draws (b : Bool) : (setIrqMask b s).draws = s.draws := rfl

/-! ### `raiseFault` -/

@[simp] theorem raiseFault_config (c : FaultCause) (op : Opcode) : (raiseFault c op s).config = s.config := rfl
@[simp] theorem raiseFault_buf (c : FaultCause) (op : Opcode) : (raiseFault c op s).buf = s.buf := rfl
@[simp] theorem raiseFault_spare (c : FaultCause) (op : Opcode) : (raiseFault c op s).spare = s.spare := rfl
@[simp] theorem raiseFault_bcR (c : FaultCause) (op : Opcode) : (raiseFault c op s).bcR = s.bcR := rfl
@[simp] theorem raiseFault_bcG (c : FaultCause) (op : Opcode) : (raiseFault c op s).bcG = s.bcG := rfl
@[simp] theorem raiseFault_bcB (c : FaultCause) (op : Opcode) : (raiseFault c op s).bcB = s.bcB := rfl
@[simp] theorem raiseFault_begun (c : FaultCause) (op : Opcode) : (raiseFault c op s).begun = s.begun := rfl
@[simp] theorem raiseFault_beginOk (c : FaultCause) (op : Opcode) : (raiseFault c op s).beginOk = s.beginOk := rfl
@[simp] theorem raiseFault_boundaryWritten (c : FaultCause) (op : Opcode) : (raiseFault c op s).boundaryWritten = s.boundaryWritten := rfl
@[simp] theorem raiseFault_fault (c : FaultCause) (op : Opcode) : (raiseFault c op s).fault = c := rfl
@[simp] theorem raiseFault_faultOp (c : FaultCause) (op : Opcode) : (raiseFault c op s).faultOp = op := rfl
@[simp] theorem raiseFault_refused (c : FaultCause) (op : Opcode) : (raiseFault c op s).refused = s.refused := rfl
@[simp] theorem raiseFault_phase (c : FaultCause) (op : Opcode) : (raiseFault c op s).phase = .faulted := rfl
@[simp] theorem raiseFault_cmdSnap (c : FaultCause) (op : Opcode) : (raiseFault c op s).cmdSnap = s.cmdSnap := rfl
@[simp] theorem raiseFault_clk (c : FaultCause) (op : Opcode) : (raiseFault c op s).clk = s.clk := rfl
@[simp] theorem raiseFault_dat (c : FaultCause) (op : Opcode) : (raiseFault c op s).dat = s.dat := rfl
@[simp] theorem raiseFault_irqMaskReq (c : FaultCause) (op : Opcode) : (raiseFault c op s).irqMaskReq = s.irqMaskReq := rfl
@[simp] theorem raiseFault_hist (c : FaultCause) (op : Opcode) : (raiseFault c op s).hist = s.hist := rfl
@[simp] theorem raiseFault_port (c : FaultCause) (op : Opcode) : (raiseFault c op s).port = s.port := rfl
@[simp] theorem raiseFault_draws (c : FaultCause) (op : Opcode) : (raiseFault c op s).draws = s.draws := rfl

/-! ### `refuseCommand` -/

@[simp] theorem refuseCommand_config : (refuseCommand s).config = s.config := rfl
@[simp] theorem refuseCommand_buf : (refuseCommand s).buf = s.buf := rfl
@[simp] theorem refuseCommand_spare : (refuseCommand s).spare = s.spare := rfl
@[simp] theorem refuseCommand_bcR : (refuseCommand s).bcR = s.bcR := rfl
@[simp] theorem refuseCommand_bcG : (refuseCommand s).bcG = s.bcG := rfl
@[simp] theorem refuseCommand_bcB : (refuseCommand s).bcB = s.bcB := rfl
@[simp] theorem refuseCommand_begun : (refuseCommand s).begun = s.begun := rfl
@[simp] theorem refuseCommand_beginOk : (refuseCommand s).beginOk = s.beginOk := rfl
@[simp] theorem refuseCommand_boundaryWritten : (refuseCommand s).boundaryWritten = s.boundaryWritten := rfl
@[simp] theorem refuseCommand_fault : (refuseCommand s).fault = s.fault := rfl
@[simp] theorem refuseCommand_faultOp : (refuseCommand s).faultOp = s.faultOp := rfl
@[simp] theorem refuseCommand_refused : (refuseCommand s).refused = true := rfl
@[simp] theorem refuseCommand_phase : (refuseCommand s).phase = .refused := rfl
@[simp] theorem refuseCommand_cmdSnap : (refuseCommand s).cmdSnap = s.cmdSnap := rfl
@[simp] theorem refuseCommand_clk : (refuseCommand s).clk = s.clk := rfl
@[simp] theorem refuseCommand_dat : (refuseCommand s).dat = s.dat := rfl
@[simp] theorem refuseCommand_irqMaskReq : (refuseCommand s).irqMaskReq = s.irqMaskReq := rfl
@[simp] theorem refuseCommand_hist : (refuseCommand s).hist = s.hist := rfl
@[simp] theorem refuseCommand_port : (refuseCommand s).port = s.port := rfl
@[simp] theorem refuseCommand_draws : (refuseCommand s).draws = s.draws := rfl

end Sys2Proof.Machine
end

