-- ==== Sys2Proof/Laws/Memory.lean ====
section
/-! SUPPORT. The channel buffer (20_memory.md R50 to R52): reading after writing, the canonical form, and everything
`bufWrite` can do. -/

namespace Sys2Proof.Machine

/-! ### The canonical form -/

theorem memWfFrom_mono {m : Memory} : ∀ {lo lo' : Nat}, lo' ≤ lo → memWfFrom lo m = true → memWfFrom lo' m = true := by
  cases m with
  | nil => intros; rfl
  | cons c rest =>
    intro lo lo' hle h
    simp only [memWfFrom, Bool.and_eq_true, decide_eq_true_eq] at h ⊢
    exact ⟨⟨by omega, h.1.2⟩, h.2⟩

/-- A slot below every listed one reads as 0. -/
theorem memRead_of_lt {m : Memory} : ∀ {lo i : Nat}, memWfFrom lo m = true → i < lo → memRead m i = 0#16 := by
  induction m with
  | nil => intros; rfl
  | cons c rest ih =>
    intro lo i h hi
    simp only [memWfFrom, Bool.and_eq_true, decide_eq_true_eq] at h
    rw [memRead, if_neg (by omega)]
    exact ih h.2 (by omega)

theorem memWfFrom_memWrite {m : Memory} : ∀ {lo i : Nat} {v : Value}, memWfFrom lo m = true → lo ≤ i →
    memWfFrom lo (memWrite m i v) = true := by
  induction m with
  | nil =>
    intro lo i v _ hi
    by_cases hv : v = 0#16 <;> simp [memWrite, memWfFrom, hv, hi]
  | cons c rest ih =>
    obtain ⟨k, w⟩ := c
    intro lo i v h hi
    simp only [memWfFrom, Bool.and_eq_true, decide_eq_true_eq] at h
    obtain ⟨⟨hk, hw⟩, hr⟩ := h
    rw [memWrite]
    split_ifs with h1 h2 h3 h4
    · simp [memWfFrom, hk, hw, hr]
    · simp only [memWfFrom, Bool.and_eq_true, decide_eq_true_eq]
      exact ⟨⟨hi, h2⟩, ⟨by omega, hw⟩, hr⟩
    · exact memWfFrom_mono (by omega) hr
    · simp only [memWfFrom, Bool.and_eq_true, decide_eq_true_eq]
      exact ⟨⟨hi, h4⟩, h3 ▸ hr⟩
    · simp only [memWfFrom, Bool.and_eq_true, decide_eq_true_eq]
      exact ⟨⟨hk, hw⟩, ih hr (by omega)⟩

/-- A write keeps the canonical form. -/
theorem memWrite_wf {m : Memory} {i : Nat} {v : Value} (h : m.wf = true) : Memory.wf (memWrite m i v) = true :=
  memWfFrom_memWrite h (Nat.zero_le i)

/-- A write below `n` lists only slots below `n`. -/
theorem memWrite_below {n : Nat} {m : Memory} {i : Nat} {v : Value} (h : memBelow n m = true) (hi : i < n) :
    memBelow n (memWrite m i v) = true := by
  induction m with
  | nil => by_cases hv : v = 0#16 <;> simp [memWrite, memBelow, hv, hi]
  | cons c rest ih =>
    obtain ⟨k, w⟩ := c
    have hc : k < n ∧ memBelow n rest = true := by simpa [memBelow] using h
    have cons : ∀ {j : Nat} {x : Value} {l : Memory}, j < n → memBelow n l = true → memBelow n ((j, x) :: l) = true := by
      intro j x l hj hl
      simpa [memBelow, hj] using hl
    rw [memWrite]
    split_ifs
    · exact h
    · exact cons hi h
    · exact hc.2
    · exact cons hi hc.2
    · exact cons hc.1 (ih hc.2)

/-! ### Reading after writing -/

theorem memRead_memWrite_same_from {m : Memory} : ∀ {lo i : Nat} {v : Value}, memWfFrom lo m = true →
    memRead (memWrite m i v) i = v := by
  induction m with
  | nil => intro lo i v _; by_cases hv : v = 0#16 <;> simp [memWrite, memRead, hv]
  | cons c rest ih =>
    obtain ⟨k, w⟩ := c
    intro lo i v h
    simp only [memWfFrom, Bool.and_eq_true, decide_eq_true_eq] at h
    rw [memWrite]
    split_ifs with h1 h2 h3 h4
    · rw [memRead, if_neg (by omega), memRead_of_lt h.2 (by omega), h2]
    · simp [memRead]
    · rw [memRead_of_lt h.2 (by omega), h4]
    · simp [memRead]
    · rw [memRead, if_neg (by omega)]
      exact ih h.2

/-- A slot reads as what was written to it. -/
theorem memRead_memWrite_same {m : Memory} {i : Nat} {v : Value} (h : m.wf = true) :
    memRead (memWrite m i v) i = v :=
  memRead_memWrite_same_from h

/-- A write leaves every other slot alone. -/
theorem memRead_memWrite_other (m : Memory) {i j : Nat} {v : Value} (hij : j ≠ i) :
    memRead (memWrite m i v) j = memRead m j := by
  induction m with
  | nil => by_cases hv : v = 0#16 <;> simp [memWrite, memRead, hv, hij]
  | cons c rest ih =>
    obtain ⟨k, w⟩ := c
    rw [memWrite]
    split_ifs with h1 h2 h3 h4
    · rfl
    · simp [memRead, hij]
    · subst h3; simp [memRead, hij]
    · subst h3; simp [memRead, hij]
    · simp only [memRead, ih]

/-- Writing the value a slot holds changes nothing. -/
theorem memWrite_held {m : Memory} : ∀ {lo : Nat}, memWfFrom lo m = true → ∀ i, memWrite m i (memRead m i) = m := by
  induction m with
  | nil => intro lo _ i; simp [memWrite, memRead]
  | cons c rest ih =>
    obtain ⟨k, w⟩ := c
    intro lo h i
    simp only [memWfFrom, Bool.and_eq_true, decide_eq_true_eq] at h
    rcases Nat.lt_trichotomy i k with hlt | heq | hgt
    · have h0 : memRead ((k, w) :: rest) i = 0#16 := by
        rw [memRead, if_neg (by omega), memRead_of_lt h.2 (by omega)]
      rw [h0, memWrite, if_pos hlt, if_pos rfl]
    · subst heq
      simp [memRead, memWrite, h.1.2]
    · have hr : memRead ((k, w) :: rest) i = memRead rest i := by rw [memRead, if_neg (by omega)]
      rw [hr, memWrite, if_neg (by omega), if_neg (by omega), ih h.2 i]

/-! ### `bufWrite` -/

theorem bufWrite_below {i : Nat} {v : Value} {s : State} (h : i < s.nch) :
    bufWrite i v s = { s with buf := memWrite s.buf i v } := by
  rw [bufWrite, if_neg (by omega), if_neg (by omega)]

theorem bufWrite_boundary {i : Nat} {v : Value} {s : State} (h : i = s.nch) :
    bufWrite i v s = { s with spare := v, boundaryWritten := true } := by
  rw [bufWrite, if_neg (by omega), if_pos h, State.writeBoundary]

theorem bufWrite_beyond {i : Nat} {v : Value} {s : State} (h : s.nch < i) : bufWrite i v s = s := by
  rw [bufWrite, if_pos h]

/-- Everything `bufWrite` can do: nothing above `NCH`, the boundary slot at `NCH`, one slot below (R51). -/
theorem bufWrite_cases (i : Nat) (v : Value) (s : State) :
    (s.nch < i ∧ bufWrite i v s = s) ∨
    (i = s.nch ∧ bufWrite i v s = { s with spare := v, boundaryWritten := true }) ∨
    (i < s.nch ∧ bufWrite i v s = { s with buf := memWrite s.buf i v }) := by
  rcases Nat.lt_trichotomy s.nch i with h | h | h
  · exact .inl ⟨h, bufWrite_beyond h⟩
  · exact .inr (.inl ⟨h.symm, bufWrite_boundary h.symm⟩)
  · exact .inr (.inr ⟨h, bufWrite_below h⟩)

/-- The frame of `bufWrite`: only the buffer, the boundary slot and its flag can change. -/
theorem bufWrite_frame (i : Nat) (v : Value) (s : State) :
    bufWrite i v s = { s with
      buf := (bufWrite i v s).buf
      spare := (bufWrite i v s).spare
      boundaryWritten := (bufWrite i v s).boundaryWritten } := by
  rcases bufWrite_cases i v s with ⟨_, h⟩ | ⟨_, h⟩ | ⟨_, h⟩ <;> rw [h]

@[simp] theorem bufWrite_config (i : Nat) (v : Value) (s : State) : (bufWrite i v s).config = s.config := by
  rw [bufWrite_frame]

@[simp] theorem bufWrite_phase (i : Nat) (v : Value) (s : State) : (bufWrite i v s).phase = s.phase := by
  rw [bufWrite_frame]

@[simp] theorem bufWrite_nch (i : Nat) (v : Value) (s : State) : (bufWrite i v s).nch = s.nch := by
  simp [State.nch]

/-- `bufWrite` keeps the canonical form of the buffer. -/
theorem bufWrite_wf {i : Nat} {v : Value} {s : State} (h : s.buf.wf = true) : (bufWrite i v s).buf.wf = true := by
  rcases bufWrite_cases i v s with ⟨_, e⟩ | ⟨_, e⟩ | ⟨_, e⟩ <;> rw [e]
  · exact h
  · exact h
  · exact memWrite_wf h

/-- `bufWrite` lists only slots that exist. -/
theorem bufWrite_memBelow {i : Nat} {v : Value} {s : State} (h : memBelow s.nch s.buf = true) :
    memBelow s.nch (bufWrite i v s).buf = true := by
  rcases bufWrite_cases i v s with ⟨_, e⟩ | ⟨_, e⟩ | ⟨hi, e⟩ <;> rw [e]
  · exact h
  · exact h
  · exact memWrite_below h hi

/-- What each slot reads after a `bufWrite` (R51, R52). -/
theorem bufRead_bufWrite {i j : Nat} {v : Value} {s : State} (h : s.buf.wf = true) :
    bufRead (bufWrite i v s) j = if j = i ∧ i < s.nch then v else bufRead s j := by
  rcases bufWrite_cases i v s with ⟨hi, e⟩ | ⟨hi, e⟩ | ⟨hi, e⟩ <;> rw [e]
  · rw [if_neg (by omega)]
  · rw [if_neg (by omega)]; rfl
  · by_cases hj : j = i
    · subst hj
      rw [if_pos ⟨rfl, hi⟩]
      exact memRead_memWrite_same h
    · rw [if_neg (fun c => hj c.1)]
      exact memRead_memWrite_other s.buf hj

end Sys2Proof.Machine
end

