-- ==== Sys2Proof/Laws/Wire.lean ====
section
/-! SUPPORT. Everything a byte primitive can do (41_transmit.md R136, R138): the events it emits, and that only the
lines and the history change. -/

namespace Sys2Proof.Machine

theorem sendBit_hist (s : State) (b : Bool) :
    (sendBit s b).hist = s.hist ++ [.clk .low, .dat (levelOf b), .clk .high] := by
  simp [sendBit]

theorem sendBit_frame (s : State) (b : Bool) :
    sendBit s b = { s with
      clk := .driven .high
      dat := .driven (levelOf b)
      hist := s.hist ++ [.clk .low, .dat (levelOf b), .clk .high] } := by
  simp [sendBit, writeClk, writeDat, State.emit]

theorem sendBits_hist (bs : List Bool) : ∀ s : State,
    (bs.foldl sendBit s).hist = s.hist ++ bs.flatMap fun b => [.clk .low, .dat (levelOf b), .clk .high] := by
  induction bs with
  | nil => simp
  | cons b bs ih => intro s; simp [ih, sendBit_hist]

theorem sendBits_frame (bs : List Bool) : ∀ s : State,
    bs.foldl sendBit s = { s with
      clk := (bs.foldl sendBit s).clk
      dat := (bs.foldl sendBit s).dat
      hist := (bs.foldl sendBit s).hist } := by
  induction bs with
  | nil => simp
  | cons b bs ih => intro s; rw [List.foldl_cons, ih (sendBit s b)]; simp only [sendBit_frame]

/-- The events `SendByte` emits, in either mode. -/
theorem sendByte_hist (v : Byte) (s : State) : (sendByte v s).hist = s.hist ++ byteEvents s.config.mode v := by
  cases hm : s.config.mode <;> simp [sendByte, byteEvents, hm, sendByteBitBang, sendByteHwSerial, sendBits_hist]

/-- `SendByte` changes only the lines and the history. -/
theorem sendByte_frame (v : Byte) (s : State) :
    sendByte v s = { s with clk := (sendByte v s).clk, dat := (sendByte v s).dat, hist := (sendByte v s).hist } := by
  unfold sendByte
  split
  · exact sendBits_frame _ s
  · rfl

@[simp] theorem sendByte_config (v : Byte) (s : State) : (sendByte v s).config = s.config := by rw [sendByte_frame]

@[simp] theorem sendByte_buf (v : Byte) (s : State) : (sendByte v s).buf = s.buf := by rw [sendByte_frame]

@[simp] theorem sendByte_cmdSnap (v : Byte) (s : State) : (sendByte v s).cmdSnap = s.cmdSnap := by
  rw [sendByte_frame]

/-- Line levels after one stretch of history and then another. -/
theorem linesAfter_append (a b : List Event) : ∀ l : Line × Line,
    linesAfter l (a ++ b) = linesAfter (linesAfter l a) b := by
  induction a with
  | nil => intro l; rfl
  | cons e a ih =>
    rintro ⟨c, d⟩
    cases e <;> simp [linesAfter, ih]

theorem sendBits_lines (bs : List Bool) : ∀ s : State,
    linesAfter (s.clk, s.dat) (bs.flatMap fun b => [.clk .low, .dat (levelOf b), .clk .high]) =
      ((bs.foldl sendBit s).clk, (bs.foldl sendBit s).dat) := by
  induction bs with
  | nil => intro s; rfl
  | cons b bs ih =>
    intro s
    rw [List.flatMap_cons, linesAfter_append, List.foldl_cons, ← ih, sendBit_frame]
    rfl

/-- The lines `SendByte` leaves are those its events say. -/
theorem sendByte_lines (v : Byte) (s : State) :
    linesAfter (s.clk, s.dat) (byteEvents s.config.mode v) = ((sendByte v s).clk, (sendByte v s).dat) := by
  cases hm : s.config.mode <;> simp only [sendByte, byteEvents, hm]
  · exact sendBits_lines _ s
  · rfl

/-- Everything `SendByte` does, in either mode: its events go to the history, and the lines follow them. -/
theorem sendByte_eq (v : Byte) (s : State) :
    sendByte v s = { s with
      clk := (linesAfter (s.clk, s.dat) (byteEvents s.config.mode v)).1
      dat := (linesAfter (s.clk, s.dat) (byteEvents s.config.mode v)).2
      hist := s.hist ++ byteEvents s.config.mode v } := by
  rw [sendByte_lines, ← sendByte_hist, ← sendByte_frame]

/-- The latch discipline over one stretch of history and then another. -/
theorem latchScan_append (settle : Nat) (a b : List Event) : ∀ l : Latch,
    latchScan settle l (a ++ b) = (latchScan settle l a).bind fun l' => latchScan settle l' b := by
  induction a with
  | nil => intro l; rfl
  | cons e a ih =>
    intro l
    simp only [List.cons_append, latchScan]
    cases latchStep settle l e <;> simp [ih]

/-- The events of a byte stay inside the masked section (R136, R138, R140). -/
theorem latchScan_byteEvents (settle : Nat) (m : Mode) (v : Byte) :
    latchScan settle .clocking (byteEvents m v) = some .clocking := by
  cases m with
  | hwSerial => rfl
  | bitBang clkPin datPin =>
    simp only [byteEvents]
    induction bitsOfByte v with
    | nil => rfl
    | cons b bs ih => rw [List.flatMap_cons, latchScan_append]; simpa [latchScan, latchStep] using ih

/-- A frame byte depends only on the command word and the buffer (R134). -/
theorem frameByte_congr {s t : State} (hc : t.cmdSnap = s.cmdSnap) (hb : t.buf = s.buf) (n j : Nat) :
    frameByte t n j = frameByte s n j := by
  simp [frameByte, bufRead, hc, hb]

/-- A chain byte depends only on the command word and the buffer (R134). -/
theorem chainByte_congr {s t : State} (hc : t.cmdSnap = s.cmdSnap) (hb : t.buf = s.buf) (k : Nat) :
    chainByte t k = chainByte s k :=
  frameByte_congr hc hb _ _

end Sys2Proof.Machine
end

