-- ==== Sys2Proof/Laws/Step.lean ====
section
/-! SUPPORT. What a step can do, said once: inversion of `step` by phase (41_transmit.md R135, 30_encoding.md R70) and of
`exec` by command. Later proofs cite these instead of unfolding the step. -/

namespace Sys2Proof.Machine

/-! ### What each phase says -/

@[simp] theorem Phase.busy_shift (n : Nat) (j : Fin 28) : (Phase.shift n j).busy = true := rfl
@[simp] theorem Phase.busy_unmask : Phase.unmask.busy = true := rfl
@[simp] theorem Phase.busy_settle : Phase.settle.busy = true := rfl
@[simp] theorem Phase.busy_idle : Phase.idle.busy = false := rfl
@[simp] theorem Phase.busy_faulted : Phase.faulted.busy = false := rfl
@[simp] theorem Phase.busy_refused : Phase.refused.busy = false := rfl
@[simp] theorem Phase.masked_shift (n : Nat) (j : Fin 28) : (Phase.shift n j).masked = true := rfl
@[simp] theorem Phase.masked_unmask : Phase.unmask.masked = true := rfl
@[simp] theorem Phase.masked_settle : Phase.settle.masked = false := rfl
@[simp] theorem Phase.masked_idle : Phase.idle.masked = false := rfl
@[simp] theorem Phase.masked_faulted : Phase.faulted.masked = false := rfl
@[simp] theorem Phase.masked_refused : Phase.refused.masked = false := rfl
@[simp] theorem Phase.latch_shift (n : Nat) (j : Fin 28) : (Phase.shift n j).latch = .clocking := rfl
@[simp] theorem Phase.latch_unmask : Phase.unmask.latch = .clocking := rfl
@[simp] theorem Phase.latch_settle : Phase.settle.latch = .owed := rfl
@[simp] theorem Phase.latch_idle : Phase.idle.latch = .quiet := rfl
@[simp] theorem Phase.latch_faulted : Phase.faulted.latch = .quiet := rfl
@[simp] theorem Phase.latch_refused : Phase.refused.latch = .quiet := rfl

/-- The phase after a byte is inside the masked section (R135, R140). -/
theorem nextPhase_inside (chips n : Nat) (j : Fin 28) :
    (nextPhase chips n j).busy = true ∧ (nextPhase chips n j).masked = true ∧
      (nextPhase chips n j).latch = .clocking := by
  unfold nextPhase
  split
  · exact ⟨rfl, rfl, rfl⟩
  · split <;> exact ⟨rfl, rfl, rfl⟩

/-- The phase after a byte of an existing frame names an existing frame, or none (R34, R135). -/
theorem nextPhase_frame {chips n n' : Nat} {j j' : Fin 28} (hn : n < chips)
    (h : nextPhase chips n j = .shift n' j') : n' < chips := by
  unfold nextPhase at h
  split at h
  · cases h; exact hn
  · split at h <;> cases h
    assumption

/-! ### Inversion of `exec` and `step` -/

/-- Where a next state of `exec` comes from: fault entry, or the command's own effect (R101, R104, R108, R110, R130). -/
theorem exec_next_cases {i : Instr} {s t : State} (h : exec i s = .next t) :
    (∃ idx val, i = .setChannel idx val ∧ s.config.allocOk = true ∧ t = bufWrite (indexOf idx) val s) ∨
    (∃ p r g b, i = .setPixel p r g b ∧ s.config.allocOk = true ∧ t = writePixel p r g b s) ∨
    (∃ r g b, i = .setBc r g b ∧ t = { s with bcR := r, bcG := g, bcB := b }) ∨
    (i = .transmit ∧ s.config.allocOk = true ∧ s.begun = true ∧ t = startTransmit s) ∨
    (i = .begin ∧ s.config.allocOk = true ∧ t = (setUpLines s).markBegun.withBeginOk true) ∨
    (i = .begin ∧ s.config.allocOk = false ∧ t = s.withBeginOk false) ∨
    ((i.opcode = 0x2#4 ∨ i.opcode = 0x3#4 ∨ i.opcode = 0x5#4) ∧ s.config.allocOk = false ∧
      t = raiseFault .noBuffer i.opcode s) ∨
    (i = .transmit ∧ s.config.allocOk = true ∧ s.begun = false ∧ t = raiseFault .notBegun i.opcode s) := by
  cases i with
  | begin =>
    simp only [exec, execBegin] at h
    split at h <;> cases h <;> simp_all
  | setChannel idx val =>
    simp only [exec, execSetChannel, withBuffer] at h
    split at h <;> cases h <;> simp_all [Instr.opcode]
  | setPixel p r g b =>
    simp only [exec, execSetPixel, withBuffer] at h
    split at h <;> cases h <;> simp_all [Instr.opcode]
  | setBc r g b =>
    simp only [exec, execSetBc] at h
    cases h
    simp
  | transmit =>
    simp only [exec, execTransmit] at h
    split at h
    · split at h <;> cases h <;> simp_all
    · cases h; simp_all [Instr.opcode]

/-- `exec` always answers a next state. -/
theorem exec_total (i : Instr) (s : State) : ∃ t, exec i s = .next t := by
  cases i with
  | begin => simp only [exec, execBegin]; split <;> exact ⟨_, rfl⟩
  | setChannel idx val => simp only [exec, execSetChannel, withBuffer]; split <;> exact ⟨_, rfl⟩
  | setPixel p r g b => simp only [exec, execSetPixel, withBuffer]; split <;> exact ⟨_, rfl⟩
  | setBc r g b => exact ⟨_, rfl⟩
  | transmit => simp only [exec, execTransmit]; split <;> [skip; exact ⟨_, rfl⟩]; split <;> exact ⟨_, rfl⟩

/-- Where a next state of `step` comes from. -/
theorem step_next_cases {s t : State} (h : step s = .next t) :
    (s.phase = .idle ∧ s.port = [] ∧ t = s) ∨
    (∃ w rest r, s.phase = .idle ∧ s.port = w :: rest ∧ decode w = .refuse r ∧
      t = refuseCommand { s with port := rest }) ∨
    (∃ w rest i, s.phase = .idle ∧ s.port = w :: rest ∧ decode w = .command i ∧
      exec i { s with port := rest } = .next t) ∨
    (∃ n j, s.phase = .shift n j ∧ s.config.allocOk = true ∧ n < s.config.chainLength ∧
      t = (sendByte (frameByte s n j.val) s).goto (nextPhase s.config.chainLength n j)) ∨
    (s.phase = .unmask ∧ t = (setIrqMask false s).goto .settle) ∨
    (s.phase = .settle ∧ t = ((s.emit (.settleBegin s.config.settle)).emit .settleEnd).goto .idle) := by
  unfold step nextAction at h
  split at h <;> rename_i hact
  · rename_i i u
    split at hact <;> try contradiction
    rename_i hphase
    unfold acceptCommand at hact
    split at hact <;> try contradiction
    rename_i w rest hport
    unfold takeWord at hact
    split at hact <;> cases hact
    rename_i hdec
    exact .inr (.inr (.inl ⟨w, rest, i, hphase, hport, hdec, h⟩))
  · rename_i o
    subst h
    split at hact <;> rename_i hphase
    · unfold acceptCommand at hact
      split at hact <;> rename_i hport
      · cases hact
        exact .inl ⟨hphase, hport, rfl⟩
      · unfold takeWord at hact
        split at hact <;> cases hact
        rename_i hdec
        exact .inr (.inl ⟨_, _, _, hphase, hport, hdec, rfl⟩)
    · rename_i n j
      simp only [Action.answer.injEq, shiftStep] at hact
      split at hact <;> cases hact
      rename_i hok
      exact .inr (.inr (.inr (.inl ⟨n, j, hphase, hok.1, hok.2, rfl⟩)))
    · simp only [Action.answer.injEq, unmaskStep] at hact
      cases hact
      exact .inr (.inr (.inr (.inr (.inl ⟨hphase, rfl⟩))))
    · simp only [Action.answer.injEq, settleStep] at hact
      cases hact
      exact .inr (.inr (.inr (.inr (.inr ⟨hphase, rfl⟩))))
    · simp at hact
    · simp at hact

/-- One `Shift` step, where the frame exists (R135). -/
theorem step_shift {s : State} {n : Nat} {j : Fin 28} (hp : s.phase = .shift n j) (ha : s.config.allocOk = true)
    (hn : n < s.config.chainLength) :
    step s = .next ((sendByte (frameByte s n j.val) s).goto (nextPhase s.config.chainLength n j)) := by
  simp [step, nextAction, hp, shiftStep, ha, hn]

/-- What follows byte `t` of a chain transmission, counted through the whole chain (R87, R135). -/
theorem nextPhase_eq {chips n : Nat} {j : Fin 28} :
    nextPhase chips n j =
      if h : j.val < 27 then .shift n ⟨j.val + 1, Nat.succ_lt_succ h⟩
      else if n + 1 < chips then .shift (n + 1) 0 else .unmask := rfl

/-- `run` of one step more, for any machine. -/
theorem core_run_succ {M : Host.Core} {s t : M.State} (k : Nat) (h : M.step s = .next t) :
    M.run (k + 1) s = M.run k t := by
  rw [Host.Core.run, h]

/-- `run` of `a + b` steps is `b` steps after `a`, for any machine. -/
theorem core_run_add {M : Host.Core} {a b : Nat} : ∀ {s t : M.State}, M.run a s = .next t →
    M.run (a + b) s = M.run b t := by
  induction a with
  | zero => intro s t h; cases h; rw [Nat.zero_add]
  | succ a ih =>
    intro s t h
    rw [Nat.succ_add, Nat.succ_eq_add_one]
    rw [Host.Core.run] at h ⊢
    cases hs : M.step s with
    | next u => rw [hs] at h; exact ih h
    | fault r => rw [hs] at h; cases h
    | refused r => rw [hs] at h; cases h

/-- `run` of one step more. -/
theorem run_succ {s t : State} (k : Nat) (h : step s = .next t) : core.run (k + 1) s = core.run k t :=
  core_run_succ (M := core) k h

/-- `run` of `a + b` steps is `b` steps after `a`. -/
theorem run_add {a b : Nat} {s t : State} (h : core.run a s = .next t) : core.run (a + b) s = core.run b t :=
  core_run_add (M := core) h

end Sys2Proof.Machine
end

