-- ==== Sys2Proof/Laws/Commands.lean ====
section
/-! SUPPORT. Everything the shared parts of BEGIN and SET_PIXEL can do (40_buffer_ops.md R101, R108). -/

namespace Sys2Proof.Machine

/-- The three cases of BEGIN's set-up: pins driven, bus initialized, or nothing left to do (R101, D14). -/
theorem setUpLines_cases (s : State) :
    (∃ c d clkPin datPin, s.config.mode = .bitBang clkPin datPin ∧ s.clk = .undriven ∧
      setUpLines s = { s with
        clk := .driven c, dat := .driven d, draws := s.draws + 2, hist := s.hist ++ [.pinsDriven c d] }) ∨
    (s.config.mode = .hwSerial ∧ s.begun = false ∧ setUpLines s = { s with hist := s.hist ++ [.busInit] }) ∨
    (((∃ clkPin datPin, s.config.mode = .bitBang clkPin datPin ∧ s.clk ≠ .undriven) ∨
      (s.config.mode = .hwSerial ∧ s.begun = true)) ∧ setUpLines s = s) := by
  unfold setUpLines
  split <;> rename_i hm <;> split <;> rename_i h
  · exact .inl ⟨_, _, _, _, hm, h, rfl⟩
  · exact .inr (.inr ⟨.inl ⟨_, _, hm, h⟩, rfl⟩)
  · exact .inr (.inr ⟨.inr ⟨hm, h⟩, rfl⟩)
  · exact .inr (.inl ⟨hm, by simpa using h, rfl⟩)

/-- BEGIN's set-up writes the lines, the history and the count of draws, and nothing else. -/
theorem setUpLines_frame (s : State) :
    setUpLines s = { s with
      clk := (setUpLines s).clk
      dat := (setUpLines s).dat
      hist := (setUpLines s).hist
      draws := (setUpLines s).draws } := by
  rcases setUpLines_cases s with ⟨_, _, _, _, _, _, h⟩ | ⟨_, _, h⟩ | ⟨_, h⟩ <;> rw [h]

/-- SET_PIXEL's three writes touch the buffer, the boundary slot and its flag, and nothing else. -/
theorem writePixel_frame (p : BitVec 16) (r g b : Value) (s : State) :
    writePixel p r g b s = { s with
      buf := (writePixel p r g b s).buf
      spare := (writePixel p r g b s).spare
      boundaryWritten := (writePixel p r g b s).boundaryWritten } := by
  unfold writePixel
  generalize h0 : bufWrite (pixelSlot p 0) r s = s0
  generalize h1 : bufWrite (pixelSlot p 1) g s0 = s1
  have f0 := bufWrite_frame (pixelSlot p 0) r s
  have f1 := bufWrite_frame (pixelSlot p 1) g s0
  have f2 := bufWrite_frame (pixelSlot p 2) b s1
  rw [h0] at f0
  rw [h1] at f1
  rw [f2, f1, f0]

theorem writePixel_wf {p : BitVec 16} {r g b : Value} {s : State} (h : s.buf.wf = true) :
    (writePixel p r g b s).buf.wf = true :=
  bufWrite_wf (bufWrite_wf (bufWrite_wf h))

theorem writePixel_memBelow {p : BitVec 16} {r g b : Value} {s : State} (h : memBelow s.nch s.buf = true) :
    memBelow s.nch (writePixel p r g b s).buf = true := by
  have h0 : memBelow s.nch (bufWrite (pixelSlot p 0) r s).buf = true := bufWrite_memBelow h
  have h1 : memBelow s.nch (bufWrite (pixelSlot p 1) g (bufWrite (pixelSlot p 0) r s)).buf = true := by
    have := bufWrite_memBelow (i := pixelSlot p 1) (v := g) (s := bufWrite (pixelSlot p 0) r s) (by simpa using h0)
    simpa using this
  have := bufWrite_memBelow (i := pixelSlot p 2) (v := b)
    (s := bufWrite (pixelSlot p 1) g (bufWrite (pixelSlot p 0) r s)) (by simpa using h1)
  simpa [writePixel] using this

/-- `bufWrite` never clears the boundary flag (R29). -/
theorem bufWrite_boundaryWritten {i : Nat} {v : Value} {s : State} (h : s.boundaryWritten = true) :
    (bufWrite i v s).boundaryWritten = true := by
  rcases bufWrite_cases i v s with ⟨_, e⟩ | ⟨_, e⟩ | ⟨_, e⟩ <;> rw [e]
  · exact h
  · exact h

end Sys2Proof.Machine
end

