-- ==== Sys2Proof/Laws/Encoding.lean ====
section
/-! SUPPORT. The fields of the 80-bit host word (30_encoding.md R71): a word is its fields, and the fields of a packed
word are what was packed. -/

namespace Sys2Proof

/-- Two words with the same fields are the same word. -/
theorem fields_ext {w w' : HostWord} (hop : fieldOp w = fieldOp w') (hrsv : fieldRsv w = fieldRsv w')
    (ha : fieldA w = fieldA w') (hb : fieldB w = fieldB w') (hc : fieldC w = fieldC w')
    (hd : fieldD w = fieldD w') : w = w' := by
  apply BitVec.eq_of_getLsbD_eq
  intro i hi
  have bit : ∀ k l : Nat, w.extractLsb' k l = w'.extractLsb' k l → k ≤ i → i < k + l →
      w.getLsbD i = w'.getLsbD i := by
    intro k l h hk hl
    have hbit := congrArg (fun v => v.getLsbD (i - k)) h
    have hpos : k + (i - k) = i := by omega
    have hlen : i - k < l := by omega
    simpa [BitVec.getLsbD_extractLsb', hpos, hlen] using hbit
  rcases Nat.lt_or_ge i 4 with h | h
  · exact bit 0 4 hop (by omega) (by omega)
  rcases Nat.lt_or_ge i 16 with h | h
  · exact bit 4 12 hrsv (by omega) (by omega)
  rcases Nat.lt_or_ge i 32 with h | h
  · exact bit 16 16 ha (by omega) (by omega)
  rcases Nat.lt_or_ge i 48 with h | h
  · exact bit 32 16 hb (by omega) (by omega)
  rcases Nat.lt_or_ge i 64 with h | h
  · exact bit 48 16 hc (by omega) (by omega)
  · exact bit 64 16 hd (by omega) (by omega)

section Pack

variable (op : Opcode) (a b c d : BitVec 16)

theorem fieldOp_pack : fieldOp (pack op a b c d) = op := by
  apply BitVec.eq_of_getLsbD_eq
  intro i hi
  simp only [fieldOp, pack, BitVec.getLsbD_extractLsb', BitVec.getLsbD_append]
  simp [hi]

theorem fieldRsv_pack : fieldRsv (pack op a b c d) = 0#12 := by
  apply BitVec.eq_of_getLsbD_eq
  intro i hi
  simp only [fieldRsv, pack, BitVec.getLsbD_extractLsb', BitVec.getLsbD_append]
  simp [hi]

theorem fieldA_pack : fieldA (pack op a b c d) = a := by
  apply BitVec.eq_of_getLsbD_eq
  intro i hi
  have h1 : ¬16 + i < 4 := by omega
  have h2 : ¬16 + i - 4 < 12 := by omega
  have h3 : 16 + i - 4 - 12 = i := by omega
  simp only [fieldA, pack, BitVec.getLsbD_extractLsb', BitVec.getLsbD_append, h1, h2, h3, hi, if_true, if_false,
    decide_true, Bool.true_and]

theorem fieldB_pack : fieldB (pack op a b c d) = b := by
  apply BitVec.eq_of_getLsbD_eq
  intro i hi
  have h1 : ¬32 + i < 4 := by omega
  have h2 : ¬32 + i - 4 < 12 := by omega
  have h3 : ¬32 + i - 4 - 12 < 16 := by omega
  have h4 : 32 + i - 4 - 12 - 16 = i := by omega
  simp only [fieldB, pack, BitVec.getLsbD_extractLsb', BitVec.getLsbD_append, h1, h2, h3, h4, hi, if_true, if_false,
    decide_true, Bool.true_and]

theorem fieldC_pack : fieldC (pack op a b c d) = c := by
  apply BitVec.eq_of_getLsbD_eq
  intro i hi
  have h1 : ¬48 + i < 4 := by omega
  have h2 : ¬48 + i - 4 < 12 := by omega
  have h3 : ¬48 + i - 4 - 12 < 16 := by omega
  have h4 : ¬48 + i - 4 - 12 - 16 < 16 := by omega
  have h5 : 48 + i - 4 - 12 - 16 - 16 = i := by omega
  simp only [fieldC, pack, BitVec.getLsbD_extractLsb', BitVec.getLsbD_append, h1, h2, h3, h4, h5, hi, if_true, if_false,
    decide_true, Bool.true_and]

theorem fieldD_pack : fieldD (pack op a b c d) = d := by
  apply BitVec.eq_of_getLsbD_eq
  intro i hi
  have h1 : ¬64 + i < 4 := by omega
  have h2 : ¬64 + i - 4 < 12 := by omega
  have h3 : ¬64 + i - 4 - 12 < 16 := by omega
  have h4 : ¬64 + i - 4 - 12 - 16 < 16 := by omega
  have h5 : ¬64 + i - 4 - 12 - 16 - 16 < 16 := by omega
  have h6 : 64 + i - 4 - 12 - 16 - 16 - 16 = i := by omega
  simp only [fieldD, pack, BitVec.getLsbD_extractLsb', BitVec.getLsbD_append, h1, h2, h3, h4, h5, h6, hi, if_false,
    decide_true, Bool.true_and]

end Pack

/-- A correction value put in a 16-bit field leaves the bits above it 0 (R73). -/
theorem aboveCorrection_setWidth (v : Correction) : aboveCorrection (v.setWidth 16) = 0#9 := by
  apply BitVec.eq_of_getLsbD_eq
  intro i hi
  have h1 : ¬7 + i < 7 := by omega
  simp [aboveCorrection, BitVec.getLsbD_extractLsb', BitVec.getLsbD_setWidth]

/-- A correction value put in a 16-bit field is read back from it (R73). -/
theorem correctionOf_setWidth (v : Correction) : correctionOf (v.setWidth 16) = v := by
  apply BitVec.eq_of_getLsbD_eq
  intro i hi
  simp [correctionOf, BitVec.getLsbD_setWidth, hi]
  intro h
  omega

/-- A field whose bits above a correction value are 0 is that correction value (R73). -/
theorem setWidth_correctionOf {a : BitVec 16} (h : aboveCorrection a = 0#9) : (correctionOf a).setWidth 16 = a := by
  apply BitVec.eq_of_getLsbD_eq
  intro i hi
  rcases Nat.lt_or_ge i 7 with h7 | h7
  · simp [correctionOf, hi, h7]
  · have hbit := congrArg (fun v => v.getLsbD (i - 7)) h
    have hpos : 7 + (i - 7) = i := by omega
    have hlen : i - 7 < 9 := by omega
    have hz : a.getLsbD i = false := by simpa [aboveCorrection, BitVec.getLsbD_extractLsb', hpos, hlen] using hbit
    have hn : ¬i < 7 := by omega
    simp [correctionOf, BitVec.getLsbD_setWidth, hn, hz]

end Sys2Proof
end

