-- ==== Sys2Proof/Laws/PerInstr.lean ====
section
/-! SUPPORT. Statements made per instruction. Family `OpcodeField`: the word of a command carries its operation code in
`op` and 0 in `rsv`, and the command is well formed (30_encoding.md R71 to R73). -/

namespace Sys2Proof.Laws.OpcodeField

def Statement (i : Instr) : Prop :=
  fieldOp (encode i) = i.opcode ∧ fieldRsv (encode i) = 0#12 ∧ i.wellFormed = true

theorem begin : Statement .begin := by
  simp [Statement, encode, Instr.opcode, Instr.wellFormed, fieldOp_pack, fieldRsv_pack]

theorem setChannel (idx : BitVec 16) (val : Value) : Statement (.setChannel idx val) := by
  simp [Statement, encode, Instr.opcode, Instr.wellFormed, fieldOp_pack, fieldRsv_pack]

theorem setPixel (p : BitVec 16) (r g b : Value) : Statement (.setPixel p r g b) := by
  simp [Statement, encode, Instr.opcode, Instr.wellFormed, fieldOp_pack, fieldRsv_pack]

theorem setBc (r g b : Correction) : Statement (.setBc r g b) := by
  simp [Statement, encode, Instr.opcode, Instr.wellFormed, fieldOp_pack, fieldRsv_pack]

theorem transmit : Statement .transmit := by
  simp [Statement, encode, Instr.opcode, Instr.wellFormed, fieldOp_pack, fieldRsv_pack]

end Sys2Proof.Laws.OpcodeField
end

