-- ==== Sys2Proof/Laws/Transmit.lean ====
section
/-! SUPPORT. The shift phase of a transmission as one induction (41_transmit.md R135): a position counts the bytes of the
whole chain, and a run of `m` steps sends the next `m` bytes. -/

namespace Sys2Proof.Machine

/-- The phase in which byte `p` of a chain transmission is sent; after the last byte, `Unmask` (R87, R135). -/
def phaseAt (chips p : Nat) : Phase :=
  if p < 28 * chips then .shift (p / 28) ⟨p % 28, Nat.mod_lt _ (by decide)⟩ else .unmask

theorem nextPhase_phaseAt {chips p : Nat} (h : p < 28 * chips) :
    nextPhase chips (p / 28) ⟨p % 28, Nat.mod_lt _ (by decide)⟩ = phaseAt chips (p + 1) := by
  unfold nextPhase phaseAt
  by_cases hj : p % 28 < 27
  · rw [dif_pos hj, if_pos (by omega)]
    have hn : (p + 1) / 28 = p / 28 := by omega
    have hm : (p + 1) % 28 = p % 28 + 1 := by omega
    simp only [hn, hm]
  · rw [dif_neg hj]
    by_cases hn : p / 28 + 1 < chips
    · rw [if_pos hn, if_pos (by omega)]
      have hq : (p + 1) / 28 = p / 28 + 1 := by omega
      have hm : (p + 1) % 28 = 0 := by omega
      simp only [hq, hm]
      rfl
    · rw [if_neg hn, if_neg (by omega)]

/-- One shift step at position `p` sends byte `p` of the chain and moves to position `p + 1`. -/
theorem step_phaseAt {s : State} {p : Nat} (ha : s.config.allocOk = true)
    (hs : s.phase = phaseAt s.config.chainLength p) (hp : p < 28 * s.config.chainLength) :
    step s = .next ((sendByte (chainByte s p) s).goto (phaseAt s.config.chainLength (p + 1))) := by
  have hphase : s.phase = .shift (p / 28) ⟨p % 28, Nat.mod_lt _ (by decide)⟩ := by rw [hs, phaseAt, if_pos hp]
  rw [step_shift hphase ha (by omega), nextPhase_phaseAt hp]
  rfl

/-- A run of `m` shift steps from position `p` sends bytes `p` to `p + m - 1` in order, and changes only the phase, the
lines and the history. -/
theorem run_shift {m : Nat} : ∀ {s : State} {p : Nat}, s.config.allocOk = true →
    s.phase = phaseAt s.config.chainLength p → p + m ≤ 28 * s.config.chainLength →
    ∃ t : State, core.run m s = .next t ∧ t.phase = phaseAt s.config.chainLength (p + m) ∧
      t.hist = s.hist ++ ((List.range m).map fun k => chainByte s (p + k)).flatMap (byteEvents s.config.mode) ∧
      t = { s with phase := t.phase, clk := t.clk, dat := t.dat, hist := t.hist } := by
  induction m with
  | zero => intro s p _ hs _; exact ⟨s, rfl, hs, by simp, rfl⟩
  | succ m ih =>
    intro s p ha hs hp
    have hstep := step_phaseAt ha hs (by omega)
    generalize hu : (sendByte (chainByte s p) s).goto (phaseAt s.config.chainLength (p + 1)) = u at hstep
    have hframe : u = { s with phase := u.phase, clk := u.clk, dat := u.dat, hist := u.hist } := by
      rw [← hu, State.goto, sendByte_frame]
    have hc : u.config = s.config := by rw [hframe]
    have hsnap : u.cmdSnap = s.cmdSnap := by rw [hframe]
    have hbuf : u.buf = s.buf := by rw [hframe]
    have hphase : u.phase = phaseAt s.config.chainLength (p + 1) := by rw [← hu]; rfl
    have hhist : u.hist = s.hist ++ byteEvents s.config.mode (chainByte s p) := by
      rw [← hu]; exact sendByte_hist _ _
    obtain ⟨t, ht, htp, hth, htf⟩ := ih (s := u) (p := p + 1) (by rw [hc]; exact ha) (by rw [hc]; exact hphase)
      (by rw [hc]; omega)
    refine ⟨t, by rw [run_succ m hstep]; exact ht, ?_, ?_, ?_⟩
    · rw [htp, hc]; congr 1; omega
    · rw [hth, hhist, hc, List.range_succ_eq_map]
      have hcongr : ∀ k, chainByte u (p + 1 + k) = chainByte s (p + (k + 1)) := by
        intro k; rw [chainByte_congr hsnap hbuf]; congr 1; omega
      simp [hcongr, List.map_map, Function.comp_def]
    · rw [htf, hframe]

end Sys2Proof.Machine
end

