-- ==== Sys2Proof/Tests/Slice0.lean ====
section
/-! SUPPORT. Tests of the model against the worked examples and vectors of spec/95_test_vectors.md and 30_encoding.md,
and, for each statement of Certificates/Slice0/Obligations.lean that has hypotheses, a concrete case that meets them. -/

namespace Sys2Proof.Tests

open Sys2Proof.Machine

/-! ### Helpers -/

/-- A block after reset; its boundary slot holds 0xBEEF. -/
def fresh (n : Nat) (m : Mode) (alloc : Bool) : State := State.construct ⟨n, m, alloc⟩ ⟨0xBEEF#16, 0x0BADF00D#32⟩

/-- Two pins. -/
def pins : Mode := .bitBang 7 8

/-- A block with a buffer that BEGIN made ready. In BitBang mode both pins came up Low, the draw the vectors assume. -/
def ready (n : Nat) (m : Mode) : State :=
  match m with
  | .bitBang _ _ => { fresh n m true with
      begun := true, beginOk := true, clk := .driven .low, dat := .driven .low, hist := [.pinsDriven .low .low] }
  | .hwSerial => { fresh n m true with begun := true, beginOk := true, hist := [.busInit] }

/-- A ready block in the middle of a transmission of its reset values. -/
def shifting (n : Nat) (m : Mode) (k : Nat) (j : Fin 28) : State :=
  { ready n m with phase := .shift k j, cmdSnap := 0x96DFFFFF#32, irqMaskReq := true }

/-- The next state satisfies `p`. -/
def after (o : Host.Outcome State Fault Refusal) (p : State → Bool) : Bool :=
  match o with
  | .next t => p t
  | .fault _ => false
  | .refused _ => false

/-- A ready single-chip block whose host presents the given words. -/
def waiting (m : Mode) (ws : List HostWord) : State := { ready 1 m with port := ws }

/-! ### Ill-formed terms are refused (R7, R76, R78, R79) -/

theorem test_configuration_of_no_chips_refused : (Configuration.mk 0 .hwSerial true).wellFormed = false := rfl

theorem test_configuration_above_n_max_refused :
    (Configuration.mk (Config.nMax + 1) .hwSerial true).wellFormed = false := by
  simp [Configuration.wellFormed]

theorem test_configuration_of_one_chip_accepted : (Configuration.mk 1 pins true).wellFormed = true := by
  simp [Configuration.wellFormed, Config.nMax]

theorem test_reset_refuses_no_chips : State.resetWith ⟨0, .hwSerial, true⟩ ⟨0, 0⟩ = none := rfl

theorem test_assembler_refuses_wide_operands :
    assemble 12 (.setch 65536 0) = none ∧ assemble 12 (.setch 0 65536) = none ∧
    assemble 12 (.setpix 0 0 0 65536) = none ∧ assemble 12 (.setbc 0 0 128) = none ∧
    assemble 12 (.setbcall 128) = none ∧ assemble 12 (.setchip 0 12 0) = none := by decide

theorem test_assembler_accepts_widest_operands :
    assemble 12 (.setch 65535 65535) = some [.setChannel 65535 65535] ∧
    assemble 12 (.setbcall 127) = some [.setBc 127 127 127] ∧
    assemble 24 (.setchip 1 11 7) = some [.setChannel 23 7] := by decide

theorem test_comment_line_assembles_to_nothing : assembleText 12 [' ', ';', 'X', 'M', 'I', 'T'] = some [] := by decide

theorem test_unknown_mnemonic_is_an_error : assembleText 12 ['N', 'O', 'P'] = none := by decide

/-! ### Decoding, the words of V-D1 to V-D14 and R80, written out from R71 and R73 -/

theorem test_decode_begin : decode 0x00000000000000000001#80 = .command .begin := by decide

theorem test_decode_set_channel : decode 0x00000000FFFF00050002#80 = .command (.setChannel 5 0xFFFF) := by decide

theorem test_decode_set_pixel :
    decode 0x9ABC5678123400050003#80 = .command (.setPixel 5 0x1234 0x5678 0x9ABC) := by decide

theorem test_decode_set_bc : decode 0x00000030002000100004#80 = .command (.setBc 0x10 0x20 0x30) := by decide

theorem test_decode_transmit : decode 0x00000000000000000005#80 = .command .transmit := by decide

theorem test_decode_reserved_opcodes :
    decode 0x00000000000000000000#80 = .refuse .reservedOpcode ∧
    decode 0x00000000000000000006#80 = .refuse .reservedOpcode ∧
    decode 0x0000000000000000000F#80 = .refuse .reservedOpcode := by decide

theorem test_decode_reserved_fields :
    decode 0x00000000000000000011#80 = .refuse .reservedField ∧
    decode 0x00000000000000010001#80 = .refuse .reservedField ∧
    decode 0x00000003000200010002#80 = .refuse .reservedField ∧
    decode 0x00010000000000000005#80 = .refuse .reservedField := by decide

theorem test_decode_correction_range :
    decode 0x00000000000000800004#80 = .refuse .bcRange ∧
    decode 0x0000007F007F007F0004#80 = .command (.setBc 127 127 127) := by decide

theorem test_decode_reserved_field_before_range :
    decode 0x00010000000000800004#80 = .refuse .reservedField := by decide

theorem test_encode_words :
    encode .begin = 0x00000000000000000001#80 ∧
    encode (.setChannel 5 0xFFFF) = 0x00000000FFFF00050002#80 ∧
    encode (.setPixel 5 0x1234 0x5678 0x9ABC) = 0x9ABC5678123400050003#80 ∧
    encode (.setBc 0x10 0x20 0x30) = 0x00000030002000100004#80 ∧
    encode .transmit = 0x00000000000000000005#80 := by decide

theorem test_decode_table_word :
    decodeTableWord 80 0x00000030002000100004 = some (.setBc 0x10 0x20 0x30) ∧
    decodeTableWord 80 0x5 = some .transmit ∧ decodeTableWord 80 0x6 = none ∧ decodeTableWord 88 0x5 = none := by decide

/-! ### BEGIN: V-B1, V-B3 -/

theorem test_begin_hw_serial :
    after (exec .begin (fresh 1 .hwSerial true)) (fun t => t.begun && t.beginOk && t.hist == [.busInit]) = true := by
  decide

theorem test_begin_without_buffer :
    after (exec .begin (fresh 1 pins false)) (fun t => decide (t = fresh 1 pins false)) = true := by decide

/-! ### SET_CHANNEL: V-SC6, V-SC3 -/

theorem test_set_channel_last_slot :
    after (exec (.setChannel 23 7) (fresh 2 .hwSerial true)) (fun t => t.buf == [(23, 7#16)] && !t.boundaryWritten) =
      true := by decide

theorem test_set_channel_boundary :
    after (exec (.setChannel 12 0xAAAA) (fresh 1 .hwSerial true))
      (fun t => t.buf == [] && t.spare == 0xAAAA#16 && t.boundaryWritten) = true := by decide

/-! ### SET_PIXEL: V-SP4, V-SP2 -/

theorem test_set_pixel :
    after (exec (.setPixel 5 0x1234 0x5678 0x9ABC) (fresh 2 .hwSerial true))
      (fun t => t.buf == [(15, 0x1234#16), (16, 0x5678#16), (17, 0x9ABC#16)]) = true := by decide

theorem test_set_pixel_boundary :
    after (exec (.setPixel 4 1 2 3) (fresh 1 .hwSerial true))
      (fun t => t.buf == [] && t.spare == 1#16 && t.boundaryWritten) = true := by decide

/-! ### SET_BC: V-BC2 with W6, V-BC4 -/

theorem test_set_bc_next_word :
    after (exec (.setBc 0x10 0x20 0x30) (fresh 1 .hwSerial true))
      (fun t => buildCmd t.bcR t.bcG t.bcB == 0x96C41030#32) = true := by decide

theorem test_set_bc_without_buffer :
    after (exec (.setBc 1 2 3) (fresh 1 .hwSerial false))
      (fun t => t.bcR == 1#7 && t.bcG == 2#7 && t.bcB == 3#7 && t.phase == .idle) = true := by decide

/-! ### TRANSMIT: V-T8, R133 -/

theorem test_transmit_before_begin :
    after (exec .transmit (fresh 1 .hwSerial true))
      (fun t => t.fault == .notBegun && t.faultOp == 0x5#4 && t.phase == .faulted && t.hist == []) = true := by decide

theorem test_transmit_starts :
    after (exec .transmit (ready 1 .hwSerial))
      (fun t => t.cmdSnap == 0x96DFFFFF#32 && t.irqMaskReq && t.hist == [.busInit, .irqMask true]) = true := by decide

/-! ### The wire: W1 to W11, S5, V-T3, P2, one step each -/

theorem test_command_words :
    buildCmd 127 127 127 = 0x96DFFFFF#32 ∧ buildCmd 0 0 0 = 0x96C00000#32 ∧ buildCmd 1 0 0 = 0x96C04000#32 ∧
    buildCmd 0 1 0 = 0x96C00080#32 ∧ buildCmd 0 0 1 = 0x96C00001#32 ∧ buildCmd 85 42 85 = 0x96D55555#32 := by decide

/-- S5: channel 5 at frame bytes 16 and 17; byte 18 is channel 4's. -/
theorem test_channel_five_position :
    (List.range 28).map (frameByte { shifting 1 .hwSerial 0 0 with buf := [(5, 0xFFFF#16)] } 0) =
      [0x96, 0xDF, 0xFF, 0xFF, 0, 0, 0, 0, 0, 0, 0, 0, 0, 0, 0, 0, 0xFF, 0xFF, 0, 0, 0, 0, 0, 0, 0, 0, 0, 0] := by decide

/-- P2: byte 16 of chip frame 1 is the high byte of slot 17. -/
theorem test_second_frame_byte :
    after (step { shifting 2 .hwSerial 1 16 with buf := [(15, 0x1234#16), (16, 0x5678#16), (17, 0x9ABC#16)] })
      (fun t => t.hist == [.busInit, .byteXfer 0x9A#8] && t.phase == .shift 1 17) = true := by decide

/-- V-T3: the events of the first byte, 0x96. -/
theorem test_bit_bang_byte :
    byteEvents pins 0x96#8 =
      [.clk .low, .dat .high, .clk .high, .clk .low, .dat .low, .clk .high, .clk .low, .dat .low, .clk .high,
       .clk .low, .dat .high, .clk .high, .clk .low, .dat .low, .clk .high, .clk .low, .dat .high, .clk .high,
       .clk .low, .dat .high, .clk .high, .clk .low, .dat .low, .clk .high] := by decide

/-- V-T9: bits 0 to 10, 31 and 32 of S3's stream. -/
theorem test_bit_index :
    (List.range 11).map (chainBit (shifting 1 .hwSerial 0 0)) =
      [true, false, false, true, false, true, true, false, true, true, false] ∧
    chainBit (shifting 1 .hwSerial 0 0) 31 = true ∧ chainBit (shifting 1 .hwSerial 0 0) 32 = false := by decide

theorem test_chip_frames_follow_each_other :
    after (step (shifting 2 .hwSerial 0 27)) (fun t => t.phase == .shift 1 0) = true := by decide

/-! ### The step and the fetch -/

/-- P5: a refused word. -/
theorem test_refused_word :
    after (step (waiting .hwSerial [0x00000000000000800004#80]))
      (fun t => t.refused && t.phase == .refused && t.bcR == 127#7 && t.hist == [.busInit]) = true := by decide

theorem test_fetched_word_runs :
    after (step (State.reset.withFetchWord 80 0x00000003000200010004)) (fun t => t.bcR == 1#7 && t.bcG == 2#7 && t.bcB == 3#7) = true := by
  decide

theorem test_write_of_zero_is_not_listed : memWrite [(3, 5#16), (9, 1#16)] 3 0#16 = [(9, 1#16)] := by decide

theorem test_reset_memory_canonical : State.reset.buf.wf = true := by decide

/-! ### Witnesses: a case that meets the hypotheses of each statement, at the boundary values of its clauses -/

theorem witness_DecodeAfterEncode :
    Instr.begin.wellFormed = true ∧ (Instr.setChannel 65535 65535).wellFormed = true ∧
    (Instr.setPixel 65535 0 1 2).wellFormed = true ∧ (Instr.setBc 127 0 127).wellFormed = true ∧
    Instr.transmit.wellFormed = true := by decide

theorem witness_EncodeAfterDecode : decode 0x0000007F007F007F0004#80 = .command (.setBc 127 127 127) := by decide

theorem witness_WordEncodesExactlyByMatchAndMask :
    0x00000000000000000001#80 &&& 0xFFFFFFFFFFFFFFFFFFFF#80 = 0x00000000000000000001#80 ∧
    0x00000000FFFF00050002#80 &&& 0xFFFFFFFF00000000FFFF#80 = 0x00000000000000000002#80 ∧
    0x9ABC5678123400050003#80 &&& 0x0000000000000000FFFF#80 = 0x00000000000000000003#80 ∧
    0x0000007F007F007F0004#80 &&& 0xFFFFFF80FF80FF80FFFF#80 = 0x00000000000000000004#80 ∧
    0x00000000000000000005#80 &&& 0xFFFFFFFFFFFFFFFFFFFF#80 = 0x00000000000000000005#80 ∧
    0x00000000000000800004#80 &&& 0xFFFFFF80FF80FF80FFFF#80 ≠ 0x00000000000000000004#80 := by decide

theorem witness_IllegalWordsRefusedByName :
    decode 0x00000000000000000006#80 = .refuse .reservedOpcode ∧
    decode 0x00000000000000000015#80 = .refuse .reservedField ∧
    decode 0x00000080000000000004#80 = .refuse .bcRange := by decide

theorem witness_BlankAll :
    let s := { fresh 1 .hwSerial true with buf := [(0, 1#16), (11, 0xFFFF#16)] }
    s.config.allocOk = true ∧ s.buf.wf = true ∧ s.nch ≤ 65536 := by decide

theorem witness_StepExecutesDecodedCommand :
    let s := waiting .hwSerial [encode .transmit]
    s.phase = .idle ∧ s.port = encode .transmit :: [] ∧ decode (encode .transmit) = .command .transmit := by decide

theorem witness_UndecodableWordIsRefused :
    let s := waiting .hwSerial [0x00000000000000000006#80]
    let halted := { s with refused := true, phase := .refused }
    s.phase = .idle ∧ s.port = 0x00000000000000000006#80 :: [] ∧
    decode 0x00000000000000000006#80 = .refuse .reservedOpcode ∧ halted.phase = .refused := by decide

theorem witness_CommandsAcceptedOnlyWhenIdle :
    (shifting 1 pins 0 27).phase.busy = true ∧ { ready 1 pins with phase := .unmask }.phase.busy = true ∧
    { ready 1 pins with phase := .settle }.phase.busy = true ∧
    { fresh 1 pins true with phase := .faulted }.phase = .faulted ∧
    { fresh 1 pins true with phase := .refused }.phase = .refused ∧
    (ready 1 pins).phase = .idle ∧ (ready 1 pins).port = [] := by decide

theorem witness_BeginEffect :
    (fresh 1 pins false).config.allocOk = false ∧
    ((fresh 1 pins true).config.allocOk = true ∧ (fresh 1 pins true).config.mode = .bitBang 7 8 ∧
      (fresh 1 pins true).clk = .undriven) ∧
    ((ready 1 pins).config.allocOk = true ∧ (ready 1 pins).config.mode = .bitBang 7 8 ∧ (ready 1 pins).clk ≠ .undriven) ∧
    ((fresh 1 .hwSerial true).config.mode = .hwSerial ∧ (fresh 1 .hwSerial true).begun = false) ∧
    ((ready 1 .hwSerial).config.mode = .hwSerial ∧ (ready 1 .hwSerial).begun = true) := by decide

theorem witness_BeginAgainChangesNothing :
    (∃ t, exec .begin (fresh 1 pins true) = .next t) ∧ ∃ t, exec .begin (fresh 1 .hwSerial false) = .next t :=
  ⟨⟨_, rfl⟩, ⟨_, rfl⟩⟩

/-- The clauses of SET_CHANNEL at indices 11, 12 and 13 of a single chip, with and without a buffer. -/
theorem witness_SetChannelByIndex :
    let s := { fresh 1 .hwSerial true with buf := [(11, 5#16)] }
    s.buf.wf = true ∧ s.config.allocOk = true ∧ (11#16).toNat < 12 * s.config.chainLength ∧ bufRead s 11 = 5#16 ∧
    (12#16).toNat = 12 * s.config.chainLength ∧ 12 * s.config.chainLength < (13#16).toNat ∧
    (fresh 1 .hwSerial false).buf.wf = true ∧ (fresh 1 .hwSerial false).config.allocOk = false := by decide

theorem witness_WritesAreIdempotent :
    (fresh 1 .hwSerial true).buf.wf = true ∧
    (∃ t, exec (.setChannel 12 5) (fresh 1 .hwSerial true) = .next t) ∧
    (∃ t, exec (.setPixel 4 1 2 3) (fresh 1 .hwSerial true) = .next t) ∧
    ∃ t, exec (.setBc 1 2 3) (fresh 1 .hwSerial true) = .next t :=
  ⟨rfl, ⟨_, rfl⟩, ⟨_, rfl⟩, ⟨_, rfl⟩⟩

/-- The clauses of SET_PIXEL at pixels 3 (slots 9 to 11), 4 (the boundary) and 5 of a single chip. -/
theorem witness_SetPixelWritesThreeSlots :
    let s := fresh 1 .hwSerial true
    s.buf.wf = true ∧ s.config.allocOk = true ∧ 3 * (3#16).toNat + 2 < 12 * s.config.chainLength ∧
    (4#16).toNat = 4 * s.config.chainLength ∧ (5#16).toNat ≠ 4 * s.config.chainLength ∧
    (fresh 1 .hwSerial false).buf.wf = true ∧ (fresh 1 .hwSerial false).config.allocOk = false := by decide

/-- Pixel 21844 is the last whose three indices fit 16 bits. -/
theorem witness_SetPixelIsThreeSetChannels :
    (fresh 1 .hwSerial true).config.allocOk = true ∧ 3 * (21844#16).toNat + 2 < 65536 ∧
    ¬ 3 * (21845#16).toNat + 2 < 65536 := by decide

theorem witness_PixelLiesInOneChip : pixelSlot 5 2 = 17 ∧ chipSlot 1 5 = 17 ∧ 2 < 3 := by decide

theorem witness_SetBcReachesNextCommandWord :
    (ready 1 pins).config.allocOk = true ∧ (ready 1 pins).begun = true := by decide

/-- V-T1 at both ends: channel 11 at bytes 4 and 5, channel 0 at bytes 26 and 27. -/
theorem witness_FrameBytePositions :
    3 < 4 ∧ 4 + 2 * (11 - 11) = 4 ∧ 5 + 2 * (11 - 0) = 27 ∧
    frameByte { ready 1 pins with buf := [(0, 0x1234#16)] } 0 26 = 0x12#8 ∧
    frameByte { ready 1 pins with buf := [(0, 0x1234#16)] } 0 27 = 0x34#8 ∧
    frameByte { ready 1 pins with buf := [(11, 0x1234#16)] } 0 4 = 0x12#8 := by decide

theorem witness_TransmitChecksInOrder :
    (fresh 1 pins false).config.allocOk = false ∧ (fresh 1 pins true).config.allocOk = true ∧
    (fresh 1 pins true).begun = false := by decide

theorem witness_TransmitStarts :
    (ready 1 pins).config.allocOk = true ∧ (ready 1 pins).begun = true ∧ (shifting 1 pins 0 0).phase.busy = true ∧
    ∃ t, step (shifting 1 pins 0 0) = .next t :=
  ⟨rfl, rfl, rfl, ⟨_, rfl⟩⟩

theorem witness_StateMachineTransitions :
    let s := waiting pins [encode .transmit]
    (s.config.allocOk = true ∧ s.phase = .idle ∧ s.port = encode .transmit :: [] ∧ s.begun = true) ∧
    ((shifting 2 pins 0 26).config.allocOk = true ∧ (shifting 2 pins 0 26).phase = .shift 0 26 ∧
      0 < (shifting 2 pins 0 26).config.chainLength ∧ (26 : Fin 28).val < 27) ∧
    ((27 : Fin 28).val = 27 ∧ 0 + 1 < (shifting 2 pins 0 27).config.chainLength) ∧
    (1 < (shifting 2 pins 1 27).config.chainLength ∧ 1 + 1 = (shifting 2 pins 1 27).config.chainLength) ∧
    { ready 1 pins with phase := .unmask }.phase = .unmask ∧
    { ready 1 .hwSerial with phase := .settle }.phase = .settle := by decide

theorem witness_BytePrimitives :
    (ready 1 pins).config.mode = .bitBang 7 8 ∧ (ready 1 .hwSerial).config.mode = .hwSerial := by decide

theorem witness_UnmaskThenSettle :
    { ready 1 pins with phase := .unmask }.phase = .unmask ∧
    ({ ready 1 pins with phase := .settle }.phase = .settle ∧
      { ready 1 pins with phase := .settle }.config.mode = .bitBang 7 8) ∧
    ({ ready 1 .hwSerial with phase := .settle }.phase = .settle ∧
      { ready 1 .hwSerial with phase := .settle }.config.mode = .hwSerial) := by decide

/-- For the statements about a whole transmission: TransmitSendsTheWholeChain, BothModesDeliverTheFormulaBits,
TransmitEventCount, LinesAfterBitBangTransmit. -/
theorem witness_WholeTransmission :
    let s := waiting pins [encode .transmit]
    let h := waiting .hwSerial [encode .transmit]
    (s.phase = .idle ∧ s.port = encode .transmit :: [] ∧ s.config.allocOk = true ∧ s.begun = true ∧
      1 ≤ s.config.chainLength ∧ s.config.mode = .bitBang 7 8) ∧
    (h.phase = .idle ∧ h.port = encode .transmit :: [] ∧ h.config.allocOk = true ∧ h.begun = true ∧
      1 ≤ h.config.chainLength ∧ h.config.mode = .hwSerial) := by decide

theorem witness_RepeatedTransmitSendsTheSame :
    let s := waiting .hwSerial [encode .transmit, encode .transmit]
    s.phase = .idle ∧ s.port = encode .transmit :: encode .transmit :: [] ∧ s.config.allocOk = true ∧
    s.begun = true ∧ 1 ≤ s.config.chainLength := by decide

theorem witness_TransmitWritesNoBufferOrStatus :
    (shifting 1 pins 0 27).phase.busy = true ∧ (∃ t, step (shifting 1 pins 0 27) = .next t) ∧
    ∃ t, exec .transmit (ready 1 pins) = .next t ∧ t.phase ≠ .faulted :=
  ⟨rfl, ⟨_, rfl⟩, ⟨_, rfl, by decide⟩⟩

theorem witness_DrivenLinesHoldOutsideShift :
    let s := { ready 1 pins with phase := .settle }
    (∃ t, step s = .next t) ∧ (∀ n j, s.phase ≠ .shift n j) ∧ s.clk ≠ .undriven ∧ s.config.mode = .bitBang 7 8 :=
  ⟨⟨_, rfl⟩, by simp, by decide, rfl⟩

/-- The last clause of NoBufferRaisedExactlyWithoutBuffer runs through a state no run reaches. -/
theorem witness_NoBuffer :
    let s := { ready 1 pins with fault := .noBuffer }
    (fresh 1 pins false).config.allocOk = false ∧ s.config.allocOk = true ∧
    ∃ t, exec (.setBc 1 2 3) s = .next t ∧ t.fault = .noBuffer :=
  ⟨rfl, rfl, ⟨_, rfl, rfl⟩⟩

theorem witness_NotBegun :
    (fresh 1 pins true).config.allocOk = true ∧ (fresh 1 pins true).begun = false ∧
    (fresh 1 pins true).fault ≠ .notBegun ∧
    ∃ t, exec .transmit (fresh 1 pins true) = .next t ∧ t.fault = .notBegun :=
  ⟨rfl, rfl, by decide, ⟨_, rfl, rfl⟩⟩

theorem witness_FaultsArePrecise :
    (fresh 1 pins false).phase ≠ .faulted ∧
    (∃ t, exec (.setChannel 0 1) (fresh 1 pins false) = .next t ∧ t.phase = .faulted) ∧
    { fresh 1 pins false with phase := .faulted }.phase = .faulted :=
  ⟨by decide, ⟨_, rfl, rfl⟩, rfl⟩

theorem witness_ResetLeavesTableValues :
    (Configuration.mk 0 .hwSerial true).chainLength = 0 ∧
    Config.nMax < (Configuration.mk (Config.nMax + 1) .hwSerial true).chainLength ∧
    1 ≤ (Configuration.mk 1 pins false).chainLength ∧ (Configuration.mk 1 pins false).chainLength ≤ Config.nMax := by
  simp [Config.nMax]

theorem witness_InvariantAtReset : ∃ s, State.resetWith ⟨1, pins, false⟩ ⟨1, 2⟩ = some s :=
  ⟨State.construct ⟨1, pins, false⟩ ⟨1, 2⟩, by
    unfold State.resetWith; rw [if_pos (by simp [Configuration.wellFormed, Config.nMax])]⟩

/-- A single-chip block in the middle of a transmission, in HwSerial mode, as a run reaches it. -/
def sounding : State := { shifting 1 .hwSerial 0 0 with hist := [.busInit, .irqMask true] }

theorem sounding_inv : Inv sounding where
  config := by simp [sounding, shifting, ready, fresh, State.construct, Configuration.wellFormed, Config.nMax]
  buffer := ⟨rfl, rfl, fun h => by cases h⟩
  result := rfl
  lines := ⟨rfl, rfl, rfl⟩
  phase := ⟨fun _ => ⟨rfl, rfl, by decide⟩, fun n j h => by cases h; decide⟩
  mask := rfl
  fault := ⟨by decide, rfl⟩
  refused := by decide
  latch := rfl

/-- A block without a buffer after a faulting SET_CHANNEL. -/
def stopped : State := { fresh 1 .hwSerial false with fault := .noBuffer, faultOp := 0x2#4, phase := .faulted }

theorem stopped_fault_inv : FaultInv stopped ∧ stopped.fault ≠ .none :=
  ⟨⟨rfl, rfl, Or.inl rfl⟩, by decide⟩

/-- For StepKeepsInvariant, HealthyBlockAlwaysSteps and BusyBlockReturnsToIdle. -/
theorem witness_Invariant :
    Inv sounding ∧ (∃ t, step sounding = .next t) ∧ sounding.phase ≠ .faulted ∧ sounding.phase ≠ .refused ∧
    sounding.phase.busy = true :=
  ⟨sounding_inv, ⟨_, rfl⟩, by decide, by decide, rfl⟩

/-- For MaskRequestFollowsPhase and StepKeepsLatchDiscipline. -/
theorem witness_MaskAndLatch : MaskInv sounding ∧ LatchInv sounding ∧ ∃ t, step sounding = .next t :=
  ⟨rfl, rfl, ⟨_, rfl⟩⟩

/-- A history with a clock event of one transmission, its settle window, and a clock event of the next. -/
def twice : State := { shifting 1 .hwSerial 0 1 with
  hist := [.busInit, .irqMask true, .byteXfer 0x96#8, .irqMask false, .settleBegin 2, .settleEnd, .irqMask true,
    .byteXfer 0x96#8] }

theorem witness_SettleWindowBetweenTransmissions :
    LatchInv twice ∧
    twice.hist = [.busInit, .irqMask true] ++ .byteXfer 0x96#8 ::
      [.irqMask false, .settleBegin 2, .settleEnd, .irqMask true] ++ .byteXfer 0x96#8 :: [] ∧
    (Event.byteXfer 0x96#8).clocks = true ∧
    Event.irqMask false ∈ [Event.irqMask false, .settleBegin 2, .settleEnd, .irqMask true] :=
  ⟨rfl, rfl, rfl, by simp⟩

/-- For ConfigurationNeverChanges, HistoryOnlyGrows and HostCannotReadBuffer. -/
theorem witness_AnyStep :
    (∃ t, step (waiting pins [encode (.setChannel 0 1)]) = .next t) ∧ ∃ t, step (shifting 1 .hwSerial 0 4) = .next t :=
  ⟨⟨_, rfl⟩, ⟨_, rfl⟩⟩

/-- `refused` is set in an idle block here, a state no run reaches; the clause holds there too. -/
theorem witness_StickyBitsStay :
    let s := { ready 1 pins with boundaryWritten := true, refused := true }
    (∃ t, step s = .next t) ∧ s.begun = true ∧ s.boundaryWritten = true ∧ s.refused = true ∧
    FaultInv stopped ∧ stopped.fault ≠ .none :=
  ⟨⟨_, rfl⟩, rfl, rfl, rfl, stopped_fault_inv⟩

end Sys2Proof.Tests
end

section
/-! PROOFS. The event history only grows (00_scope.md R11, 10_state.md R39): each effect leaves it alone or appends to it, so
the history before a command, and before a step, is a prefix of the history after it. -/

namespace Sys2Proof.Machine

@[simp] theorem bufWrite_hist (i : Nat) (v : Value) (s : State) : (bufWrite i v s).hist = s.hist := by
  rw [bufWrite_frame]

@[simp] theorem writePixel_hist (p : BitVec 16) (r g b : Value) (s : State) : (writePixel p r g b s).hist = s.hist := by
  rw [writePixel_frame]

@[simp] theorem startTransmit_hist (s : State) : (startTransmit s).hist = s.hist ++ [.irqMask true] := rfl

theorem setUpLines_hist_prefix (s : State) : s.hist <+: (setUpLines s).hist := by
  obtain ⟨_, _, _, _, _, _, h⟩ | ⟨_, _, h⟩ | ⟨_, h⟩ := setUpLines_cases s
  · rw [h]; exact List.prefix_append _ _
  · rw [h]; exact List.prefix_append _ _
  · rw [h]

/-- A command appends to the history or leaves it alone (R101, R104, R108, R110, R133, R171). -/
theorem exec_hist_prefix {i : Instr} {s t : State} (h : exec i s = .next t) : s.hist <+: t.hist := by
  obtain ⟨_, _, _, _, rfl⟩ | ⟨_, _, _, _, _, _, rfl⟩ | ⟨_, _, _, _, rfl⟩ | ⟨_, _, _, rfl⟩ | ⟨_, _, rfl⟩ | ⟨_, _, rfl⟩ |
    ⟨_, _, rfl⟩ | ⟨_, _, _, rfl⟩ := exec_next_cases h
  · simp -- SET_CHANNEL
  · simp -- SET_PIXEL
  · exact List.prefix_refl _ -- SET_BC
  · simp -- TRANSMIT, the Start
  · simpa using setUpLines_hist_prefix s -- BEGIN with a buffer
  · simp -- BEGIN without a buffer
  · simp -- Fault(NoBuffer)
  · simp -- Fault(NotBegun)

/-- A step appends to the history or leaves it alone (R11, R39). -/
theorem step_hist_prefix {s t : State} (h : step s = .next t) : s.hist <+: t.hist := by
  obtain ⟨_, _, rfl⟩ | ⟨_, _, _, _, _, _, rfl⟩ | ⟨_, _, _, _, _, _, hexec⟩ | ⟨_, _, _, _, _, rfl⟩ | ⟨_, rfl⟩ | ⟨_, rfl⟩ :=
    step_next_cases h
  · exact List.prefix_refl _ -- waiting
  · simp -- a word refused
  · simpa using exec_hist_prefix hexec -- a command executed
  · simp [sendByte_hist] -- Shift
  · simp -- Unmask
  · simp -- Settle

/-- Settles O51: a prefix is the history before the step with the step's events after it. -/
theorem historyOnlyGrows : Obligations.HistoryOnlyGrows := by
  intro s t h
  obtain ⟨es, hes⟩ := step_hist_prefix h
  exact ⟨es, hes.symm⟩

end Sys2Proof.Machine
end

section
/-! PROOFS. What a step does in each phase but `Shift` (30_encoding.md R70, R74, 41_transmit.md R135, 60_exceptions.md R171),
as equations beside the inversion `step_next_cases`. -/

namespace Sys2Proof.Machine

theorem step_idle_nil {s : State} (hp : s.phase = .idle) (hport : s.port = []) : step s = .next s := by
  simp [step, nextAction, hp, acceptCommand, hport]

theorem step_of_command {s : State} {w : HostWord} {rest : List HostWord} {i : Instr} (hp : s.phase = .idle)
    (hport : s.port = w :: rest) (hdec : decode w = .command i) : step s = exec i { s with port := rest } := by
  simp [step, nextAction, hp, acceptCommand, hport, takeWord, hdec]

theorem step_of_refusal {s : State} {w : HostWord} {rest : List HostWord} {r : RefuseReason} (hp : s.phase = .idle)
    (hport : s.port = w :: rest) (hdec : decode w = .refuse r) :
    step s = .next (refuseCommand { s with port := rest }) := by
  simp [step, nextAction, hp, acceptCommand, hport, takeWord, hdec]

theorem step_unmask {s : State} (hp : s.phase = .unmask) : step s = .next ((setIrqMask false s).goto .settle) := by
  simp [step, nextAction, hp, unmaskStep]

theorem step_settle {s : State} (hp : s.phase = .settle) :
    step s = .next (((s.emit (.settleBegin s.config.settle)).emit .settleEnd).goto .idle) := by
  simp [step, nextAction, hp, settleStep]

theorem step_faulted {s : State} (h : s.phase = .faulted) : step s = .fault .haltedByFault := by
  simp [step, nextAction, h]

end Sys2Proof.Machine
end

section
/-! PROOFS. Every step keeps the invariant of a sound state (10_state.md R20 to R38). Each effect a step can have gets one
lemma, which names only the clauses of `Inv` that the effect can touch; the others are carried over. -/

namespace Sys2Proof.Machine

/-! ### The clauses of `Inv` under a change of the state -/

/-- Outside the transmission the clause on busy blocks says nothing (R34). -/
theorem phaseInv_of_not_busy {s : State} (h : s.phase.busy = false) : PhaseInv s :=
  ⟨by simp [h], fun n j hs => by simp [hs] at h⟩

/-- Outside `Faulted` the fault registers are at their reset values (R30). -/
theorem faultInv_iff_of_not_faulted {s : State} (hp : s.phase ≠ .faulted) :
    FaultInv s ↔ s.fault = .none ∧ s.faultOp = 0x0#4 := by
  unfold FaultInv
  cases s.fault <;> simp [hp]

/-- A change that leaves the fault registers alone and goes from a phase that is not `Faulted` to another. -/
theorem FaultInv.of_not_faulted {s t : State} (h : FaultInv s) (hs : s.phase ≠ .faulted) (ht : t.phase ≠ .faulted)
    (hf : t.fault = s.fault) (ho : t.faultOp = s.faultOp) : FaultInv t := by
  rw [faultInv_iff_of_not_faulted ht, hf, ho]
  exact (faultInv_iff_of_not_faulted hs).mp h

/-- The line levels that a longer history leaves follow from those the shorter one left (R36, R131). -/
theorem LinesInv.linesAfter_append {s : State} (h : LinesInv s) (es : List Event) :
    linesAfter (.undriven, .undriven) (s.hist ++ es) = linesAfter (s.clk, s.dat) es := by
  rw [Machine.linesAfter_append, h.1]

/-- The discipline of a longer history follows from where the shorter one stands (R143). -/
theorem LatchInv.append {s t : State} {es : List Event} (h : LatchInv s) (hc : t.config = s.config)
    (hh : t.hist = s.hist ++ es) (hes : latchScan s.config.settle s.phase.latch es = some t.phase.latch) :
    LatchInv t := by
  unfold LatchInv at h ⊢
  rw [hc, hh, latchScan_append, h]
  exact hes

/-! ### BEGIN (R101) -/

/-- In BitBang mode BEGIN drives undriven lines; lines that are driven, and the bus of HwSerial mode, it leaves alone. -/
theorem linesInv_begin {s : State} (h : LinesInv s) : LinesInv ((setUpLines s).markBegun.withBeginOk true) := by
  obtain ⟨c, d, _, _, hm, _, e⟩ | ⟨hm, _, e⟩ | ⟨⟨_, _, hm, hclk⟩ | ⟨hm, _⟩, e⟩ := setUpLines_cases s <;> rw [e]
  · exact ⟨h.linesAfter_append [.pinsDriven c d], by simp [hm]⟩
  · exact ⟨h.linesAfter_append [.busInit], by simpa [LinesInv, hm] using h.2⟩
  · have hlines := h.2
    simp only [hm] at hlines
    have hdat : s.dat ≠ .undriven := fun hd => hclk (hlines.1.mpr (hlines.2.mp hd))
    exact ⟨h.1, by simp [hm, hclk, hdat]⟩
  · exact ⟨h.1, by simpa [hm] using h.2⟩

/-- The set-up events stand outside every masked section (R101, R143). -/
theorem latchInv_begin {s : State} (h : LatchInv s) (hp : s.phase = .idle) :
    LatchInv ((setUpLines s).markBegun.withBeginOk true) := by
  obtain ⟨_, _, _, _, _, _, e⟩ | ⟨_, _, e⟩ | ⟨_, e⟩ := setUpLines_cases s <;> rw [e]
  · exact h.append rfl rfl (by simp [hp, latchScan, latchStep])
  · exact h.append rfl rfl (by simp [hp, latchScan, latchStep])
  · exact h

theorem inv_begin {s : State} (h : Inv s) (hp : s.phase = .idle) (ha : s.config.allocOk = true) :
    Inv ((setUpLines s).markBegun.withBeginOk true) := by
  obtain ⟨hwf, hbelow, _⟩ := h.buffer
  have hlines := linesInv_begin h.lines
  have hlatch := latchInv_begin h.latch hp
  rw [setUpLines_frame] at hlines hlatch ⊢
  exact { h with
    buffer := ⟨hwf, hbelow, by simp [ha]⟩
    result := rfl
    lines := hlines
    phase := phaseInv_of_not_busy (by simp [hp])
    fault := h.fault.of_not_faulted (by simp [hp]) (by simp [hp]) rfl rfl
    latch := hlatch }

/-- BEGIN without a buffer reports what `begun` says already: it never succeeded. -/
theorem inv_begin_of_no_buffer {s : State} (h : Inv s) (ha : s.config.allocOk = false) : Inv (s.withBeginOk false) :=
  have ⟨_, _, hnone⟩ := h.buffer
  have ⟨_, _, hbegun⟩ := hnone ha
  { h with result := hbegun.symm }

/-! ### The other commands, the refusal and the faults -/

/-- A command that writes only slots of the buffer and the boundary slot (R51). -/
theorem inv_of_slots {s : State} {m : Memory} {v : Value} {written : Bool} (h : Inv s) (ha : s.config.allocOk = true)
    (hwf : m.wf = true) (hbelow : memBelow s.nch m = true) :
    Inv { s with buf := m, spare := v, boundaryWritten := written } :=
  { h with buffer := ⟨hwf, hbelow, by simp [ha]⟩ }

theorem inv_bufWrite {s : State} (i : Nat) (v : Value) (h : Inv s) (ha : s.config.allocOk = true) :
    Inv (bufWrite i v s) := by
  obtain ⟨hwf, hbelow, _⟩ := h.buffer
  rw [bufWrite_frame]
  exact inv_of_slots h ha (bufWrite_wf hwf) (bufWrite_memBelow hbelow)

theorem inv_writePixel {s : State} (p : BitVec 16) (r g b : Value) (h : Inv s) (ha : s.config.allocOk = true) :
    Inv (writePixel p r g b s) := by
  obtain ⟨hwf, hbelow, _⟩ := h.buffer
  rw [writePixel_frame]
  exact inv_of_slots h ha (writePixel_wf hwf) (writePixel_memBelow hbelow)

theorem inv_setBc {s : State} (r g b : Correction) (h : Inv s) (hp : s.phase = .idle) :
    Inv { s with bcR := r, bcG := g, bcB := b } :=
  { h with phase := phaseInv_of_not_busy (by simp [hp]) }

/-- The first frame exists because the chain has at least one chip (R7). -/
theorem inv_startTransmit {s : State} (h : Inv s) (hp : s.phase = .idle) (ha : s.config.allocOk = true)
    (hb : s.begun = true) : Inv (startTransmit s) :=
  have hchain : 0 < s.config.chainLength := by
    have hc := h.config
    simp only [Configuration.wellFormed, Bool.and_eq_true, decide_eq_true_eq] at hc
    exact hc.1
  { h with
    lines := ⟨h.lines.linesAfter_append [.irqMask true], h.lines.2⟩
    phase := ⟨fun _ => ⟨ha, hb, rfl⟩, fun n j e => by cases e; exact hchain⟩
    mask := rfl
    fault := h.fault.of_not_faulted (by simp [hp]) (by simp [startTransmit]) rfl rfl
    refused := by simpa [startTransmit, hp] using h.refused
    latch := h.latch.append rfl rfl (by simp [hp, startTransmit, latchScan, latchStep]) }

/-- Fault entry from `Idle`, where the fault registers then hold what the invariant allows (R171). -/
theorem inv_raiseFault {s : State} {cause : FaultCause} {op : Opcode} (h : Inv s) (hp : s.phase = .idle)
    (hf : FaultInv (raiseFault cause op s)) : Inv (raiseFault cause op s) :=
  { h with
    phase := phaseInv_of_not_busy rfl
    mask := by simpa [MaskInv, hp] using h.mask
    fault := hf
    refused := by simpa [hp] using h.refused
    latch := by simpa [LatchInv, hp] using h.latch }

theorem inv_refuseCommand {s : State} (h : Inv s) (hp : s.phase = .idle) : Inv (refuseCommand s) :=
  { h with
    phase := phaseInv_of_not_busy rfl
    mask := by simpa [MaskInv, refuseCommand, hp] using h.mask
    fault := h.fault.of_not_faulted (by simp [hp]) (by simp [refuseCommand]) rfl rfl
    refused := by simp [refuseCommand]
    latch := by simpa [LatchInv, refuseCommand, hp] using h.latch }

/-- A command accepted in `Idle` keeps the invariant. -/
theorem exec_inv {i : Instr} {s t : State} (h : Inv s) (hp : s.phase = .idle) (he : exec i s = .next t) : Inv t := by
  obtain ⟨_, _, _, ha, rfl⟩ | ⟨_, _, _, _, _, ha, rfl⟩ | ⟨_, _, _, _, rfl⟩ | ⟨_, ha, hb, rfl⟩ | ⟨_, ha, rfl⟩ |
    ⟨_, ha, rfl⟩ | ⟨hop, ha, rfl⟩ | ⟨rfl, ha, hb, rfl⟩ := exec_next_cases he
  · exact inv_bufWrite _ _ h ha -- SET_CHANNEL
  · exact inv_writePixel _ _ _ _ h ha -- SET_PIXEL
  · exact inv_setBc _ _ _ h hp
  · exact inv_startTransmit h hp ha hb
  · exact inv_begin h hp ha
  · exact inv_begin_of_no_buffer h ha
  · exact inv_raiseFault h hp ⟨rfl, ha, hop⟩ -- Fault(NoBuffer)
  · exact inv_raiseFault h hp ⟨rfl, ha, hb, rfl⟩ -- Fault(NotBegun)

/-! ### The steps of a transmission (R135) -/

/-- A byte of the BitBang primitive leaves both lines driven, a byte of the bus leaves them alone (R136, R138). -/
theorem linesInv_sendByte {s : State} (v : Byte) (h : LinesInv s) (hb : s.begun = true) : LinesInv (sendByte v s) := by
  refine ⟨by rw [sendByte_hist, h.linesAfter_append, sendByte_lines], ?_⟩
  rw [sendByte_config]
  have hlines := h.2
  cases hm : s.config.mode <;> simp only [hm] at hlines ⊢
  · simp [sendByte, hm, sendByteBitBang, bitsOfByte, sendBit, hb]
  · simpa [sendByte, hm, sendByteHwSerial] using hlines

theorem inv_shift {s : State} {n : Nat} {j : Fin 28} (v : Byte) (h : Inv s) (hp : s.phase = .shift n j)
    (hn : n < s.config.chainLength) :
    Inv ((sendByte v s).goto (nextPhase s.config.chainLength n j)) := by
  obtain ⟨hbusy, hmasked, hlatched⟩ := nextPhase_inside s.config.chainLength n j
  have hfaulted : nextPhase s.config.chainLength n j ≠ .faulted := fun e => by simp [e] at hbusy
  have hrefused : nextPhase s.config.chainLength n j ≠ .refused := fun e => by simp [e] at hbusy
  obtain ⟨ha, hb, hsnap⟩ := h.phase.1 (by simp [hp])
  have hlines := linesInv_sendByte v h.lines hb
  have hlatch : LatchInv ((sendByte v s).goto (nextPhase s.config.chainLength n j)) :=
    h.latch.append (es := byteEvents s.config.mode v) (by simp) (by simp [sendByte_hist])
      (by simp [hp, hlatched, latchScan_byteEvents])
  rw [sendByte_frame] at hlines hlatch ⊢
  exact { h with
    lines := hlines
    phase := ⟨fun _ => ⟨ha, hb, hsnap⟩, fun _ _ e => nextPhase_frame hn e⟩
    mask := by simpa [MaskInv, hp, hmasked] using h.mask
    fault := h.fault.of_not_faulted (by simp [hp]) hfaulted rfl rfl
    refused := by simpa [hp, hrefused] using h.refused
    latch := hlatch }

theorem inv_unmask {s : State} (h : Inv s) (hp : s.phase = .unmask) : Inv ((setIrqMask false s).goto .settle) :=
  { h with
    lines := ⟨h.lines.linesAfter_append [.irqMask false], h.lines.2⟩
    phase := ⟨fun _ => h.phase.1 (by simp [hp]), fun _ _ e => by cases e⟩
    mask := rfl
    fault := h.fault.of_not_faulted (by simp [hp]) (by simp) rfl rfl
    refused := by simpa [hp] using h.refused
    latch := h.latch.append rfl rfl (by simp [hp, latchScan, latchStep]) }

theorem inv_settle {s : State} (h : Inv s) (hp : s.phase = .settle) :
    Inv (((s.emit (.settleBegin s.config.settle)).emit .settleEnd).goto .idle) :=
  have hhist : ((s.emit (.settleBegin s.config.settle)).emit .settleEnd).hist =
      s.hist ++ [.settleBegin s.config.settle, .settleEnd] := by simp
  { h with
    lines := ⟨by rw [State.goto_hist, hhist, h.lines.linesAfter_append]; rfl, h.lines.2⟩
    phase := phaseInv_of_not_busy rfl
    mask := by simpa [MaskInv, hp] using h.mask
    fault := h.fault.of_not_faulted (by simp [hp]) (by simp) rfl rfl
    refused := by simpa [hp] using h.refused
    latch := h.latch.append rfl hhist (by simp [hp, latchScan, latchStep]) }

/-- Settles O44, by the cases of a step: each effect keeps the invariant. -/
theorem stepKeepsInvariant : Obligations.StepKeepsInvariant := by
  intro s t h hstep
  obtain ⟨_, _, rfl⟩ | ⟨_, _, _, hp, _, _, rfl⟩ | ⟨_, rest, _, hp, _, _, hexec⟩ | ⟨_, _, hp, _, hn, rfl⟩ |
    ⟨hp, rfl⟩ | ⟨hp, rfl⟩ := step_next_cases hstep
  · exact h
  · exact inv_refuseCommand { h with } hp
  · exact exec_inv (s := { s with port := rest }) { h with } hp hexec
  · exact inv_shift _ h hp hn
  · exact inv_unmask h hp
  · exact inv_settle h hp

end Sys2Proof.Machine
end

section
/-! PROOFS. What no step changes (10_state.md R20, R27 to R31, R36): the configuration, the sticky status bits, and the driven
lines outside `Shift`. -/

namespace Sys2Proof.Machine

/-! ### The configuration (R20, R203) -/

@[simp] theorem writePixel_config (p : BitVec 16) (r g b : Value) (s : State) :
    (writePixel p r g b s).config = s.config := by
  rw [writePixel_frame]

@[simp] theorem setUpLines_config (s : State) : (setUpLines s).config = s.config := by
  rw [setUpLines_frame]

@[simp] theorem startTransmit_config (s : State) : (startTransmit s).config = s.config := rfl

theorem exec_config {i : Instr} {s t : State} (h : exec i s = .next t) : t.config = s.config := by
  obtain ⟨_, _, _, _, rfl⟩ | ⟨_, _, _, _, _, _, rfl⟩ | ⟨_, _, _, _, rfl⟩ | ⟨_, _, _, rfl⟩ | ⟨_, _, rfl⟩ | ⟨_, _, rfl⟩ |
    ⟨_, _, rfl⟩ | ⟨_, _, _, rfl⟩ := exec_next_cases h <;> simp

/-- Settles O50, by the cases of a step. -/
theorem configurationNeverChanges : Obligations.ConfigurationNeverChanges := by
  intro s t h
  obtain ⟨_, _, rfl⟩ | ⟨_, _, _, _, _, _, rfl⟩ | ⟨_, rest, _, _, _, _, hexec⟩ | ⟨_, _, _, _, _, rfl⟩ | ⟨_, rfl⟩ | ⟨_, rfl⟩ :=
    step_next_cases h
  · rfl -- waiting
  · simp -- a word refused
  · exact exec_config (s := { s with port := rest }) hexec -- a command executed
  · simp -- Shift
  · simp -- Unmask
  · simp -- Settle

/-! ### The sticky status bits (R27, R29, R31) -/

/-- No sticky bit of `s` is cleared in `t`. -/
def StickyKept (s t : State) : Prop :=
  (s.begun = true → t.begun = true) ∧ (s.boundaryWritten = true → t.boundaryWritten = true) ∧
  (s.refused = true → t.refused = true)

theorem stickyKept_bufWrite (i : Nat) (v : Value) (s : State) : StickyKept s (bufWrite i v s) :=
  ⟨fun h => by rw [bufWrite_frame]; exact h, bufWrite_boundaryWritten, fun h => by rw [bufWrite_frame]; exact h⟩

theorem stickyKept_writePixel (p : BitVec 16) (r g b : Value) (s : State) : StickyKept s (writePixel p r g b s) :=
  ⟨fun h => by rw [writePixel_frame]; exact h,
    fun h => bufWrite_boundaryWritten (bufWrite_boundaryWritten (bufWrite_boundaryWritten h)),
    fun h => by rw [writePixel_frame]; exact h⟩

theorem stickyKept_begin (s : State) : StickyKept s ((setUpLines s).markBegun.withBeginOk true) := by
  rw [setUpLines_frame]
  exact ⟨fun _ => rfl, id, id⟩

theorem exec_stickyKept {i : Instr} {s t : State} (h : exec i s = .next t) : StickyKept s t := by
  obtain ⟨_, _, _, _, rfl⟩ | ⟨_, _, _, _, _, _, rfl⟩ | ⟨_, _, _, _, rfl⟩ | ⟨_, _, _, rfl⟩ | ⟨_, _, rfl⟩ | ⟨_, _, rfl⟩ |
    ⟨_, _, rfl⟩ | ⟨_, _, _, rfl⟩ := exec_next_cases h
  · exact stickyKept_bufWrite _ _ s -- SET_CHANNEL
  · exact stickyKept_writePixel _ _ _ _ s -- SET_PIXEL
  · exact ⟨id, id, id⟩ -- SET_BC
  · exact ⟨id, id, id⟩ -- TRANSMIT, the Start
  · exact stickyKept_begin s -- BEGIN with a buffer
  · exact ⟨id, id, id⟩ -- BEGIN without a buffer
  · exact ⟨id, id, id⟩ -- Fault(NoBuffer)
  · exact ⟨id, id, id⟩ -- Fault(NotBegun)

theorem step_stickyKept {s t : State} (h : step s = .next t) : StickyKept s t := by
  obtain ⟨_, _, rfl⟩ | ⟨_, _, _, _, _, _, rfl⟩ | ⟨_, rest, _, _, _, _, hexec⟩ | ⟨_, _, _, _, _, rfl⟩ | ⟨_, rfl⟩ | ⟨_, rfl⟩ :=
    step_next_cases h
  · exact ⟨id, id, id⟩ -- waiting
  · exact ⟨id, id, fun _ => rfl⟩ -- a word refused
  · exact exec_stickyKept (s := { s with port := rest }) hexec -- a command executed
  · rw [sendByte_frame]; exact ⟨id, id, id⟩ -- Shift
  · exact ⟨id, id, id⟩ -- Unmask
  · exact ⟨id, id, id⟩ -- Settle

/-- Settles O52: no effect of a step clears a sticky bit, and a recorded fault stands in `Faulted`, which has no step. -/
theorem stickyBitsStay : Obligations.StickyBitsStay := by
  refine ⟨fun s t => step_stickyKept, fun s hinv hfault => step_faulted ?_⟩
  by_contra hp
  exact hfault ((faultInv_iff_of_not_faulted hp).mp hinv).1

/-! ### The driven lines (R36, R142, R149) -/

/-- A second BEGIN finds the lines driven and does not set them up again (D14). -/
theorem setUpLines_of_driven {s : State} {clkPin datPin : PinId} (hm : s.config.mode = .bitBang clkPin datPin)
    (hc : s.clk ≠ .undriven) : setUpLines s = s := by
  simp [setUpLines, hm, hc]

theorem exec_lines_of_driven {i : Instr} {s t : State} {clkPin datPin : PinId} (h : exec i s = .next t)
    (hm : s.config.mode = .bitBang clkPin datPin) (hc : s.clk ≠ .undriven) : t.clk = s.clk ∧ t.dat = s.dat := by
  obtain ⟨_, _, _, _, rfl⟩ | ⟨_, _, _, _, _, _, rfl⟩ | ⟨_, _, _, _, rfl⟩ | ⟨_, _, _, rfl⟩ | ⟨_, _, rfl⟩ | ⟨_, _, rfl⟩ |
    ⟨_, _, rfl⟩ | ⟨_, _, _, rfl⟩ := exec_next_cases h
  · rw [bufWrite_frame]; exact ⟨rfl, rfl⟩ -- SET_CHANNEL
  · rw [writePixel_frame]; exact ⟨rfl, rfl⟩ -- SET_PIXEL
  · exact ⟨rfl, rfl⟩ -- SET_BC
  · exact ⟨rfl, rfl⟩ -- TRANSMIT, the Start
  · rw [setUpLines_of_driven hm hc]; exact ⟨rfl, rfl⟩ -- BEGIN with a buffer
  · exact ⟨rfl, rfl⟩ -- BEGIN without a buffer
  · exact ⟨rfl, rfl⟩ -- Fault(NoBuffer)
  · exact ⟨rfl, rfl⟩ -- Fault(NotBegun)

/-- Settles O38: of the effects a step has outside `Shift`, only BEGIN's set-up writes a line, and it finds them driven. -/
theorem drivenLinesHoldOutsideShift : Obligations.DrivenLinesHoldOutsideShift := by
  intro s t h hshift hc clkPin datPin hm
  obtain ⟨_, _, rfl⟩ | ⟨_, _, _, _, _, _, rfl⟩ | ⟨_, rest, _, _, _, _, hexec⟩ | ⟨n, j, hp, _, _, _⟩ | ⟨_, rfl⟩ | ⟨_, rfl⟩ :=
    step_next_cases h
  · exact ⟨rfl, rfl⟩ -- waiting
  · exact ⟨rfl, rfl⟩ -- a word refused
  · exact exec_lines_of_driven (s := { s with port := rest }) hexec hm hc -- a command executed
  · exact absurd hp (hshift n j) -- Shift
  · exact ⟨rfl, rfl⟩ -- Unmask
  · exact ⟨rfl, rfl⟩ -- Settle

end Sys2Proof.Machine
end

section
/-! PROOFS. The host learns nothing of the buffer (10_state.md R23, 20_memory.md R52): a step taken with other contents in the
buffer ends in the same state but for the buffer, the lines and the history. -/

namespace Sys2Proof.Machine

/-! ### Commands: only the buffer differs -/

theorem setUpLines_withBuf (m : Memory) (s : State) :
    setUpLines { s with buf := m } = { setUpLines s with buf := m } := by
  cases hm : s.config.mode with
  | bitBang clkPin datPin => by_cases hc : s.clk = .undriven <;> simp [setUpLines, hm, hc, drivePins, State.emit]
  | hwSerial => by_cases hb : s.begun = true <;> simp [setUpLines, hm, hb, State.emit]

theorem bufWrite_withBuf (i : Nat) (v : Value) (m : Memory) (s : State) :
    ∃ m', bufWrite i v { s with buf := m } = { bufWrite i v s with buf := m' } := by
  obtain ⟨hi, h⟩ | ⟨hi, h⟩ | ⟨hi, h⟩ := bufWrite_cases i v s <;> rw [h]
  · exact ⟨m, bufWrite_beyond hi⟩
  · exact ⟨m, bufWrite_boundary hi⟩
  · exact ⟨memWrite m i v, bufWrite_below hi⟩

theorem writePixel_withBuf (p : BitVec 16) (r g b : Value) (m : Memory) (s : State) :
    ∃ m', writePixel p r g b { s with buf := m } = { writePixel p r g b s with buf := m' } := by
  unfold writePixel
  obtain ⟨m₀, h₀⟩ := bufWrite_withBuf (pixelSlot p 0) r m s
  obtain ⟨m₁, h₁⟩ := bufWrite_withBuf (pixelSlot p 1) g m₀ (bufWrite (pixelSlot p 0) r s)
  rw [h₀, h₁]
  exact bufWrite_withBuf _ _ _ _

/-- A writing command whose effect differs only in the buffer does so too, also where it faults. -/
theorem withBuffer_withBuf (op : Opcode) {effect : State → State} {m : Memory} {s : State}
    (h : ∃ m', effect { s with buf := m } = { effect s with buf := m' }) :
    ∃ m', withBuffer op effect { s with buf := m } = mapNext (fun t => { t with buf := m' }) (withBuffer op effect s) := by
  obtain ⟨m', h⟩ := h
  by_cases ha : s.config.allocOk = true
  · exact ⟨m', by simp [withBuffer, ha, h, mapNext]⟩
  · exact ⟨m, by simp [withBuffer, ha, mapNext, raiseFault, State.recordFault, State.goto]⟩

theorem execTransmit_withBuf (m : Memory) (s : State) :
    execTransmit { s with buf := m } = mapNext (fun t => { t with buf := m }) (execTransmit s) := by
  unfold execTransmit
  split
  · split <;> rfl
  · rfl

/-- A command executed with other contents in the buffer does the same but for the buffer: no command reads it. -/
theorem exec_withBuf (i : Instr) (m : Memory) (s : State) :
    ∃ m', exec i { s with buf := m } = mapNext (fun t => { t with buf := m' }) (exec i s) := by
  cases i with
  | begin =>
    refine ⟨m, ?_⟩
    simp only [exec, execBegin, setUpLines_withBuf]
    split <;> rfl
  | setChannel idx val => exact withBuffer_withBuf _ (bufWrite_withBuf _ _ m s)
  | setPixel p r g b => exact withBuffer_withBuf _ (writePixel_withBuf _ _ _ _ m s)
  | setBc r g b => exact ⟨m, rfl⟩
  | transmit => exact ⟨m, execTransmit_withBuf m s⟩

/-! ### Steps: the lines and the history may differ too -/

/-- `u` is `t` but for the buffer, the lines and the history. -/
def SameOffBuffer (t u : State) : Prop := u = { t with buf := u.buf, clk := u.clk, dat := u.dat, hist := u.hist }

theorem SameOffBuffer.hostView_eq {t u : State} (h : SameOffBuffer t u) : hostView u = hostView t := by
  rw [h]
  rfl

theorem sameOffBuffer_withBuf (m : Memory) (t : State) : SameOffBuffer t { t with buf := m } := rfl

/-- Two bytes sent from states that differ in the buffer: only the lines and the history can tell them apart (R136, R138). -/
theorem sameOffBuffer_sendByte (v v' : Byte) (m : Memory) (p : Phase) (s : State) :
    SameOffBuffer ((sendByte v s).goto p) ((sendByte v' { s with buf := m }).goto p) := by
  rw [sendByte_frame v, sendByte_frame v']
  rfl

/-- A step taken with other contents in the buffer completes, in the same state off the buffer. -/
theorem step_withBuf {s t : State} (m : Memory) (h : step s = .next t) :
    ∃ u, step { s with buf := m } = .next u ∧ SameOffBuffer t u := by
  obtain ⟨hp, hport, rfl⟩ | ⟨_, rest, _, hp, hport, hdec, rfl⟩ | ⟨_, rest, i, hp, hport, hdec, hexec⟩ |
    ⟨_, _, hp, ha, hn, rfl⟩ | ⟨hp, rfl⟩ | ⟨hp, rfl⟩ := step_next_cases h
  · exact ⟨_, step_idle_nil hp hport, sameOffBuffer_withBuf m _⟩ -- waiting
  · exact ⟨_, step_of_refusal hp hport hdec, rfl⟩ -- a word refused
  · obtain ⟨m', hm'⟩ := exec_withBuf i m { s with port := rest } -- a command executed
    rw [hexec] at hm'
    exact ⟨_, (step_of_command (s := { s with buf := m }) hp hport hdec).trans hm', sameOffBuffer_withBuf m' t⟩
  · exact ⟨_, step_shift hp ha hn, sameOffBuffer_sendByte _ _ m _ s⟩ -- Shift
  · exact ⟨_, step_unmask hp, rfl⟩ -- Unmask
  · exact ⟨_, step_settle hp, rfl⟩ -- Settle

/-- Settles O54: off the buffer the two steps end alike, and what the host sees lies off the buffer. -/
theorem hostCannotReadBuffer : Obligations.HostCannotReadBuffer := by
  intro s t m h
  obtain ⟨u, hstep, hsame⟩ := step_withBuf m h
  exact ⟨u, hstep, hsame.hostView_eq, hsame⟩

end Sys2Proof.Machine
end

section
/-! PROOFS. The channel buffer and the correction registers as a memory (20_memory.md R54, R64, R65): a write repeated
changes nothing, a pixel's slots lie in one chip, and a SET_BC is in the next command word. -/

namespace Sys2Proof.Machine

/-! ### Writing again what is held (R64) -/

/-- `s` holds what a `bufWrite` of `v` at `i` would leave: the value in the slot, or in the boundary slot with its flag set. -/
def SlotHolds (i : Nat) (v : Value) (s : State) : Prop :=
  (i < s.nch → bufRead s i = v) ∧ (i = s.nch → s.spare = v ∧ s.boundaryWritten = true)

theorem bufWrite_of_slotHolds {i : Nat} {v : Value} {s : State} (hw : s.buf.wf = true) (h : SlotHolds i v s) :
    bufWrite i v s = s := by
  obtain ⟨hslot, hboundary⟩ := h
  obtain ⟨_, e⟩ | ⟨hi, e⟩ | ⟨hi, e⟩ := bufWrite_cases i v s <;> rw [e]
  · obtain ⟨hv, hflag⟩ := hboundary hi
    rw [← hv, ← hflag]
  · rw [← hslot hi, bufRead, memWrite_held hw i]

theorem slotHolds_bufWrite (i : Nat) (v : Value) {s : State} (hw : s.buf.wf = true) :
    SlotHolds i v (bufWrite i v s) := by
  refine ⟨fun hi => ?_, fun hi => ?_⟩
  · rw [bufWrite_nch] at hi
    rw [bufRead_bufWrite hw, if_pos ⟨rfl, hi⟩]
  · rw [bufWrite_nch] at hi
    rw [bufWrite_boundary hi]
    exact ⟨rfl, rfl⟩

/-- A write to another index leaves what slot `i` holds. -/
theorem SlotHolds.bufWrite_other {i j : Nat} {v w : Value} {s : State} (h : SlotHolds i v s) (hij : i ≠ j) :
    SlotHolds i v (bufWrite j w s) := by
  obtain ⟨_, e⟩ | ⟨hj, e⟩ | ⟨_, e⟩ := bufWrite_cases j w s <;> rw [e]
  · exact h
  · exact ⟨h.1, fun hi => absurd (hi.trans hj.symm) hij⟩
  · exact ⟨fun hi => (memRead_memWrite_other s.buf hij).trans (h.1 hi), h.2⟩

theorem bufWrite_again (i : Nat) (v : Value) {s : State} (hw : s.buf.wf = true) :
    bufWrite i v (bufWrite i v s) = bufWrite i v s :=
  bufWrite_of_slotHolds (bufWrite_wf hw) (slotHolds_bufWrite i v hw)

/-- After SET_PIXEL each of the pixel's three indices holds its value: the later writes go to other indices (R62, R108). -/
theorem slotHolds_writePixel (p : BitVec 16) (r g b : Value) {s : State} (hw : s.buf.wf = true) :
    SlotHolds (pixelSlot p 0) r (writePixel p r g b s) ∧ SlotHolds (pixelSlot p 1) g (writePixel p r g b s) ∧
    SlotHolds (pixelSlot p 2) b (writePixel p r g b s) := by
  have h01 : pixelSlot p 0 ≠ pixelSlot p 1 := by simp [pixelSlot]
  have h02 : pixelSlot p 0 ≠ pixelSlot p 2 := by simp [pixelSlot]
  have h12 : pixelSlot p 1 ≠ pixelSlot p 2 := by simp [pixelSlot]
  exact ⟨((slotHolds_bufWrite _ r hw).bufWrite_other h01).bufWrite_other h02,
    (slotHolds_bufWrite _ g (bufWrite_wf hw)).bufWrite_other h12,
    slotHolds_bufWrite _ b (bufWrite_wf (bufWrite_wf hw))⟩

theorem writePixel_again (p : BitVec 16) (r g b : Value) {s : State} (hw : s.buf.wf = true) :
    writePixel p r g b (writePixel p r g b s) = writePixel p r g b s := by
  have hw' : (writePixel p r g b s).buf.wf = true := writePixel_wf hw
  obtain ⟨hr, hg, hb⟩ := slotHolds_writePixel p r g b hw
  generalize writePixel p r g b s = t at hw' hr hg hb ⊢
  rw [writePixel, bufWrite_of_slotHolds hw' hr, bufWrite_of_slotHolds hw' hg, bufWrite_of_slotHolds hw' hb]

/-- A writing command repeats itself when its effect does; without a buffer it is the fault entry that repeats (R171, R172). -/
theorem withBuffer_again {op : Opcode} {effect : State → State} {s t : State} (h : withBuffer op effect s = .next t)
    (hconfig : (effect s).config = s.config) (hagain : effect (effect s) = effect s) :
    withBuffer op effect t = .next t := by
  unfold withBuffer at h ⊢
  split at h <;> cases h
  case isTrue ha => rw [hconfig, if_pos ha, hagain]
  case isFalse ha => rw [raiseFault_config, if_neg ha]; rfl

/-- Settles O15: each command finds held what it wrote. -/
theorem writesAreIdempotent : Obligations.WritesAreIdempotent := by
  intro s t hw
  refine ⟨fun idx val h => ?_, fun p r g b h => ?_, fun r g b h => ?_⟩
  · exact withBuffer_again h (bufWrite_config _ _ s) (bufWrite_again _ _ hw) -- SET_CHANNEL
  · exact withBuffer_again h (writePixel_config _ _ _ _ s) (writePixel_again _ _ _ _ hw) -- SET_PIXEL
  · cases h; rfl -- SET_BC

/-! ### Where a pixel lies (R54) -/

/-- Settles O18: `3p + k` is `12 * (p div 4) + (3 * (p mod 4) + k)`. -/
theorem pixelLiesInOneChip : Obligations.PixelLiesInOneChip := by
  intro p k hk
  simp only [pixelSlot, chipSlot, indexOf, Config.channelsPerChip, true_and]
  omega

/-! ### SET_BC and the command word (R65, R84) -/

theorem ofNat_shiftLeft (w x k : Nat) : BitVec.ofNat w (x <<< k) = BitVec.ofNat w x <<< k := by
  apply BitVec.eq_of_toNat_eq
  simp [Nat.shiftLeft_eq]

/-- The reference's shift-and-OR sequence in 32 bits, each field shifted to its place (R84). -/
theorem buildCmd_eq_or (r g b : Correction) :
    buildCmd r g b = 0x96C00000#32 ||| (r.setWidth 32 <<< 14) ||| (g.setWidth 32 <<< 7) ||| b.setWidth 32 := by
  simp [buildCmd, magic, controlFlags, BitVec.ofNat_or, ofNat_shiftLeft, BitVec.shiftLeft_or_distrib,
    ← BitVec.shiftLeft_add]

theorem exec_transmit_ready {s : State} (ha : s.config.allocOk = true) (hb : s.begun = true) :
    exec .transmit s = .next (startTransmit s) := by
  simp [exec, execTransmit, ha, hb]

theorem execAll_cons {i : Instr} {s t : State} (h : exec i s = .next t) (rest : List Instr) :
    execAll (i :: rest) s = execAll rest t := by
  simp [execAll, h]

/-- Settles O20: TRANSMIT's Start builds the command word from the registers SET_BC wrote. -/
theorem setBcReachesNextCommandWord : Obligations.SetBcReachesNextCommandWord := by
  intro s r g b ha hb
  have hset : exec (.setBc r g b) s = .next { s with bcR := r, bcG := g, bcB := b } := rfl
  have hstart := exec_transmit_ready (s := { s with bcR := r, bcG := g, bcB := b }) ha hb
  exact ⟨_, (execAll_cons hset _).trans (execAll_cons hstart _), buildCmd_eq_or r g b⟩

end Sys2Proof.Machine
end

section
/-! PROOFS. The byte stream of a chain transmission is the bit stream of the formula (20_memory.md R59): bit by bit within a
byte, and byte by byte along the chain. -/

namespace Sys2Proof.Machine

theorem bitsOfByte_eq_map (v : Byte) : bitsOfByte v = (List.range 8).map fun q => v.getLsbD (7 - q) := rfl

theorem getLsbD_commandByte (c : CmdWord) {j q : Nat} (hj : j < 4) (hq : q < 8) :
    (commandByte c j).getLsbD (7 - q) = c.getLsbD (31 - (8 * j + q)) := by
  have hbit : 24 - 8 * j + (7 - q) = 31 - (8 * j + q) := by omega
  simp [commandByte, hbit, show 7 - q < 8 by omega]

theorem getLsbD_highByte (v : Value) {q : Nat} (hq : q < 8) : (highByte v).getLsbD (7 - q) = v.getLsbD (15 - q) := by
  have hbit : 8 + (7 - q) = 15 - q := by omega
  simp [highByte, hbit, show 7 - q < 8 by omega]

theorem getLsbD_lowByte (v : Value) (q : Nat) : (lowByte v).getLsbD (7 - q) = v.getLsbD (15 - (8 + q)) := by
  have hbit : 7 - q = 15 - (8 + q) := by omega
  simp [lowByte, hbit, show 15 - (8 + q) < 8 by omega]

/-- Bit `q` of frame byte `j`, counted from the most significant, is frame bit `8j + q` of the formula (R59, R86). -/
theorem getLsbD_frameByte (s : State) (n j : Nat) {q : Nat} (hq : q < 8) :
    (frameByte s n j).getLsbD (7 - q) = frameBit s n (8 * j + q) := by
  unfold frameByte frameBit
  split_ifs with hj hlt hpar hlt hlt
  · exact getLsbD_commandByte s.cmdSnap hj hq
  · omega
  · omega
  · have hchan : (8 * j + q - 32) / 16 = (j - 4) / 2 := by omega
    have hbit : (8 * j + q - 32) % 16 = q := by omega
    rw [hchan, hbit, getLsbD_highByte _ hq]
    rfl
  · omega
  · have hchan : (8 * j + q - 32) / 16 = (j - 4) / 2 := by omega
    have hbit : (8 * j + q - 32) % 16 = 8 + q := by omega
    rw [hchan, hbit, getLsbD_lowByte]
    rfl

/-- Bit `q` of chain byte `t`, counted from the most significant, is chain bit `8t + q` (R59, R87). -/
theorem getLsbD_chainByte (s : State) (t : Nat) {q : Nat} (hq : q < 8) :
    (chainByte s t).getLsbD (7 - q) = chainBit s (8 * t + q) := by
  have hframe : (8 * t + q) / 224 = t / 28 := by omega
  have hbit : (8 * t + q) % 224 = 8 * (t % 28) + q := by omega
  rw [chainByte, chainBit, hframe, hbit, getLsbD_frameByte s _ _ hq]

theorem bitsOfByte_chainByte (s : State) (t : Nat) :
    bitsOfByte (chainByte s t) = (List.range 8).map fun q => chainBit s (8 * t + q) := by
  rw [bitsOfByte_eq_map]
  exact List.map_congr_left fun q hq => getLsbD_chainByte s t (List.mem_range.mp hq)

/-- The bits of the first `m` chain bytes are the first `8m` chain bits. -/
theorem flatMap_bitsOfByte_chainByte (s : State) (m : Nat) :
    ((List.range m).map (chainByte s)).flatMap bitsOfByte = (List.range (8 * m)).map (chainBit s) := by
  induction m with
  | zero => rfl
  | succ m ih =>
    rw [List.range_succ, List.map_append, List.flatMap_append, ih, Nat.mul_succ, List.range_add, List.map_append,
      List.map_map]
    simp only [List.map_cons, List.map_nil, List.flatMap_singleton, bitsOfByte_chainByte]
    rfl

/-- Settles O25: the whole chain is its first `28N` bytes. -/
theorem frameBytesAreFormulaBits : Obligations.FrameBytesAreFormulaBits := by
  intro s
  have hlen : 224 * s.config.chainLength = 8 * (28 * s.config.chainLength) := by omega
  rw [chainBytes, chainBits, hlen, flatMap_bitsOfByte_chainByte]

end Sys2Proof.Machine
end

section
/-! PROOFS. The decoder and the encoder are inverse (30_encoding.md R71 to R74): the checks of R74 one by one, what each
operation's own check accepts, and that a word is a command exactly when it is the word of that command. -/

namespace Sys2Proof

/-! ### Words by their fields -/

/-- A word is the packing of given operands exactly when its fields hold them and `rsv` is 0 (R71). -/
theorem pack_eq_iff {op : Opcode} {a b c d : BitVec 16} {w : HostWord} : pack op a b c d = w ↔
    fieldOp w = op ∧ fieldRsv w = 0#12 ∧ fieldA w = a ∧ fieldB w = b ∧ fieldC w = c ∧ fieldD w = d := by
  constructor
  · rintro rfl
    exact ⟨fieldOp_pack .., fieldRsv_pack .., fieldA_pack .., fieldB_pack .., fieldC_pack .., fieldD_pack ..⟩
  · rintro ⟨rfl, hrsv, rfl, rfl, rfl, rfl⟩
    exact fields_ext (fieldOp_pack ..) ((fieldRsv_pack ..).trans hrsv.symm) (fieldA_pack ..) (fieldB_pack ..)
      (fieldC_pack ..) (fieldD_pack ..)

/-- An operand is the correction value in it exactly when its bits above that are 0 (R73). -/
theorem setWidth_correctionOf_iff {a : BitVec 16} :
    a = (correctionOf a).setWidth 16 ↔ aboveCorrection a = 0#9 :=
  ⟨fun h => by rw [h, aboveCorrection_setWidth], fun h => (setWidth_correctionOf h).symm⟩

/-! ### The checks of `decode`, in R74's order -/

/-- An opcode the table has no row for (R72, R74). -/
def IllegalOpcode (op : Opcode) : Prop := op = 0x0#4 ∨ 0x5#4 < op

theorem opcode_cases (op : Opcode) :
    IllegalOpcode op ∨ op = 0x1#4 ∨ op = 0x2#4 ∨ op = 0x3#4 ∨ op = 0x4#4 ∨ op = 0x5#4 := by
  unfold IllegalOpcode
  revert op
  decide

section Dispatch

variable {w : HostWord} (hrsv : fieldRsv w = 0#12)
include hrsv

theorem decode_of_begin (hop : fieldOp w = 0x1#4) : decode w = decodeBare .begin w := by
  simp [decode, hop, hrsv]

theorem decode_of_setChannel (hop : fieldOp w = 0x2#4) : decode w = decodeSetChannel w := by
  simp [decode, hop, hrsv]

theorem decode_of_setPixel (hop : fieldOp w = 0x3#4) :
    decode w = .command (.setPixel (fieldA w) (fieldB w) (fieldC w) (fieldD w)) := by
  simp [decode, hop, hrsv]

theorem decode_of_setBc (hop : fieldOp w = 0x4#4) : decode w = decodeSetBc w := by
  simp [decode, hop, hrsv]

theorem decode_of_transmit (hop : fieldOp w = 0x5#4) : decode w = decodeBare .transmit w := by
  simp [decode, hop, hrsv]

end Dispatch

/-- What `decode` answers, by the check that decides it: no opcode, a nonzero `rsv`, or the operation's own check. -/
theorem decode_cases (w : HostWord) :
    (IllegalOpcode (fieldOp w) ∧ decode w = .refuse .reservedOpcode) ∨
    (¬IllegalOpcode (fieldOp w) ∧ fieldRsv w ≠ 0#12 ∧ decode w = .refuse .reservedField) ∨
    (fieldRsv w = 0#12 ∧ fieldOp w = 0x1#4 ∧ decode w = decodeBare .begin w) ∨
    (fieldRsv w = 0#12 ∧ fieldOp w = 0x2#4 ∧ decode w = decodeSetChannel w) ∨
    (fieldRsv w = 0#12 ∧ fieldOp w = 0x3#4 ∧
      decode w = .command (.setPixel (fieldA w) (fieldB w) (fieldC w) (fieldD w))) ∨
    (fieldRsv w = 0#12 ∧ fieldOp w = 0x4#4 ∧ decode w = decodeSetBc w) ∨
    (fieldRsv w = 0#12 ∧ fieldOp w = 0x5#4 ∧ decode w = decodeBare .transmit w) := by
  by_cases hop : IllegalOpcode (fieldOp w)
  · exact .inl ⟨hop, if_pos hop⟩
  by_cases hrsv : fieldRsv w = 0#12
  · obtain hop' | h | h | h | h | h := opcode_cases (fieldOp w)
    · exact absurd hop' hop
    · exact .inr (.inr (.inl ⟨hrsv, h, decode_of_begin hrsv h⟩))
    · exact .inr (.inr (.inr (.inl ⟨hrsv, h, decode_of_setChannel hrsv h⟩)))
    · exact .inr (.inr (.inr (.inr (.inl ⟨hrsv, h, decode_of_setPixel hrsv h⟩))))
    · exact .inr (.inr (.inr (.inr (.inr (.inl ⟨hrsv, h, decode_of_setBc hrsv h⟩)))))
    · exact .inr (.inr (.inr (.inr (.inr (.inr ⟨hrsv, h, decode_of_transmit hrsv h⟩)))))
  · exact .inr (.inl ⟨hop, hrsv, (if_neg hop).trans (if_pos hrsv)⟩)

theorem decodeBare_eq_command {i i' : Instr} {w : HostWord} : decodeBare i w = .command i' ↔
    i = i' ∧ fieldA w = 0#16 ∧ fieldB w = 0#16 ∧ fieldC w = 0#16 ∧ fieldD w = 0#16 := by
  unfold decodeBare
  split_ifs with h <;> simp [h]

theorem decodeSetChannel_eq_command {i : Instr} {w : HostWord} : decodeSetChannel w = .command i ↔
    .setChannel (fieldA w) (fieldB w) = i ∧ fieldC w = 0#16 ∧ fieldD w = 0#16 := by
  unfold decodeSetChannel
  split_ifs with h <;> simp [h]

theorem decodeSetBc_eq_command {i : Instr} {w : HostWord} : decodeSetBc w = .command i ↔
    .setBc (correctionOf (fieldA w)) (correctionOf (fieldB w)) (correctionOf (fieldC w)) = i ∧
    aboveCorrection (fieldA w) = 0#9 ∧ aboveCorrection (fieldB w) = 0#9 ∧ aboveCorrection (fieldC w) = 0#9 ∧
    fieldD w = 0#16 := by
  unfold decodeSetBc
  split_ifs with hd habove
  · simp [hd]
  · exact iff_of_false (by simp) fun ⟨_, ha, hb, hc, _⟩ => by simp [ha, hb, hc] at habove
  · simp only [ne_eq, not_or, not_not] at hd habove
    simp [hd, habove]

/-! ### Encode after decode -/

theorem encode_of_decode {w : HostWord} {i : Instr} (h : decode w = .command i) : encode i = w := by
  obtain ⟨_, e⟩ | ⟨_, _, e⟩ | ⟨hrsv, hop, e⟩ | ⟨hrsv, hop, e⟩ | ⟨hrsv, hop, e⟩ | ⟨hrsv, hop, e⟩ | ⟨hrsv, hop, e⟩ :=
    decode_cases w <;> rw [e] at h
  · cases h -- an illegal opcode
  · cases h -- a nonzero `rsv`
  · obtain ⟨rfl, hoperands⟩ := decodeBare_eq_command.mp h
    exact pack_eq_iff.mpr ⟨hop, hrsv, hoperands⟩
  · obtain ⟨rfl, hcd⟩ := decodeSetChannel_eq_command.mp h
    exact pack_eq_iff.mpr ⟨hop, hrsv, rfl, rfl, hcd⟩
  · cases h
    exact pack_eq_iff.mpr ⟨hop, hrsv, rfl, rfl, rfl, rfl⟩
  · obtain ⟨rfl, ha, hb, hc, hd⟩ := decodeSetBc_eq_command.mp h
    exact pack_eq_iff.mpr ⟨hop, hrsv, setWidth_correctionOf_iff.mpr ha, setWidth_correctionOf_iff.mpr hb,
      setWidth_correctionOf_iff.mpr hc, hd⟩
  · obtain ⟨rfl, hoperands⟩ := decodeBare_eq_command.mp h
    exact pack_eq_iff.mpr ⟨hop, hrsv, hoperands⟩

/-- Settles O2: no check leaves a bit of the word unread. -/
theorem encodeAfterDecode : Obligations.EncodeAfterDecode := fun _ _ => encode_of_decode

/-! ### Decode after encode -/

theorem decode_encode (i : Instr) : decode (encode i) = .command i := by
  generalize hw : encode i = w
  cases i with
  | begin =>
    obtain ⟨hop, hrsv, hoperands⟩ := pack_eq_iff.mp hw
    rw [decode_of_begin hrsv hop, decodeBare_eq_command]
    exact ⟨rfl, hoperands⟩
  | setChannel idx val =>
    obtain ⟨hop, hrsv, rfl, rfl, hcd⟩ := pack_eq_iff.mp hw
    rw [decode_of_setChannel hrsv hop, decodeSetChannel_eq_command]
    exact ⟨rfl, hcd⟩
  | setPixel p r g b =>
    obtain ⟨hop, hrsv, rfl, rfl, rfl, rfl⟩ := pack_eq_iff.mp hw
    exact decode_of_setPixel hrsv hop
  | setBc r g b =>
    obtain ⟨hop, hrsv, ha, hb, hc, hd⟩ := pack_eq_iff.mp hw
    rw [decode_of_setBc hrsv hop, decodeSetBc_eq_command, ha, hb, hc]
    simp only [correctionOf_setWidth, aboveCorrection_setWidth, hd, and_self]
  | transmit =>
    obtain ⟨hop, hrsv, hoperands⟩ := pack_eq_iff.mp hw
    rw [decode_of_transmit hrsv hop, decodeBare_eq_command]
    exact ⟨rfl, hoperands⟩

/-- Settles O1: the operation's own check finds in the fields what the encoder packed. -/
theorem decodeAfterEncode : Obligations.DecodeAfterEncode := fun i _ => decode_encode i

theorem decode_eq_command_iff {w : HostWord} {i : Instr} : decode w = .command i ↔ encode i = w :=
  ⟨encode_of_decode, fun h => h ▸ decode_encode i⟩

end Sys2Proof
end

section
/-! PROOFS. The match and mask table decides what a word encodes, and what no row admits is refused under its name
(30_encoding.md R73, R74, R76): both are read off the fields of the word. -/

namespace Sys2Proof

/-! ### Stretches of bits -/

theorem extractLsb'_extractLsb' {n k l start len : Nat} (w : BitVec n) (h : start + len ≤ l) :
    (w.extractLsb' k l).extractLsb' start len = w.extractLsb' (k + start) len := by
  apply BitVec.eq_of_getLsbD_eq
  intro i hi
  simp [hi, show start + i < l by omega, Nat.add_assoc]

/-- A stretch of bits is 0 exactly when its low and its high part are. -/
theorem extractLsb'_eq_zero_iff {n : Nat} (w : BitVec n) (start l m : Nat) :
    w.extractLsb' start (m + l) = 0#(m + l) ↔ w.extractLsb' start l = 0#l ∧ w.extractLsb' (start + l) m = 0#m := by
  constructor
  · intro h
    have hlow := extractLsb'_extractLsb' (k := start) w (show 0 + l ≤ m + l by omega)
    have hhigh := extractLsb'_extractLsb' (k := start) w (show l + m ≤ m + l by omega)
    rw [h, BitVec.extractLsb'_zero] at hlow hhigh
    exact ⟨hlow.symm, hhigh.symm⟩
  · rintro ⟨hlow, hhigh⟩
    rw [← BitVec.extractLsb'_append_extractLsb'_eq_extractLsb' rfl, hlow, hhigh, BitVec.zero_append_zero]

theorem operandsCD_eq_zero_iff (w : HostWord) : w.extractLsb' 48 32 = 0#32 ↔ fieldC w = 0#16 ∧ fieldD w = 0#16 :=
  extractLsb'_eq_zero_iff w 48 16 16

theorem operands_eq_zero_iff (w : HostWord) :
    w.extractLsb' 16 64 = 0#64 ↔ fieldA w = 0#16 ∧ fieldB w = 0#16 ∧ fieldC w = 0#16 ∧ fieldD w = 0#16 := by
  rw [← operandsCD_eq_zero_iff]
  exact (extractLsb'_eq_zero_iff w 16 16 48).trans (and_congr_right fun _ => extractLsb'_eq_zero_iff w 32 16 32)

/-! ### The table of R73 -/

/-- A word under a mask, field by field. -/
theorem and_eq_iff_fields {w m v : HostWord} : w &&& m = v ↔
    fieldOp w &&& fieldOp m = fieldOp v ∧ fieldRsv w &&& fieldRsv m = fieldRsv v ∧
    fieldA w &&& fieldA m = fieldA v ∧ fieldB w &&& fieldB m = fieldB v ∧
    fieldC w &&& fieldC m = fieldC v ∧ fieldD w &&& fieldD m = fieldD v := by
  have hand : ∀ start len, (w &&& m).extractLsb' start len = w.extractLsb' start len &&& m.extractLsb' start len :=
    fun _ _ => BitVec.extractLsb'_and
  constructor
  · rintro rfl
    exact ⟨(hand ..).symm, (hand ..).symm, (hand ..).symm, (hand ..).symm, (hand ..).symm, (hand ..).symm⟩
  · rintro ⟨hop, hrsv, ha, hb, hc, hd⟩
    exact fields_ext ((hand ..).trans hop) ((hand ..).trans hrsv) ((hand ..).trans ha) ((hand ..).trans hb)
      ((hand ..).trans hc) ((hand ..).trans hd)

theorem and_correctionMask_eq_zero_iff (a : BitVec 16) : a &&& 0xFF80#16 = 0#16 ↔ aboveCorrection a = 0#9 := by
  have hsplit : aboveCorrection a ++ correctionOf a = a := BitVec.extractLsb'_append_extractLsb'
  calc a &&& 0xFF80#16 = 0#16
    _ ↔ (aboveCorrection a ++ correctionOf a) &&& (BitVec.allOnes 9 ++ 0#7) = 0#9 ++ 0#7 := by rw [hsplit]; rfl
    _ ↔ aboveCorrection a = 0#9 := by
      rw [BitVec.and_append, BitVec.and_allOnes, BitVec.and_zero, BitVec.append_left_inj]

section Rows

variable (w : HostWord)

/-- The rows without operands: the mask covers the whole word. -/
theorem decode_eq_bare_iff (i : Instr) : decode w = .command i ↔ w &&& 0xFFFFFFFFFFFFFFFFFFFF#80 = encode i := by
  rw [decode_eq_command_iff, show 0xFFFFFFFFFFFFFFFFFFFF#80 = BitVec.allOnes 80 from rfl, BitVec.and_allOnes, eq_comm]

theorem decode_eq_setChannel_iff :
    decode w = .command (.setChannel (fieldA w) (fieldB w)) ↔
      w &&& 0xFFFFFFFF00000000FFFF#80 = 0x00000000000000000002#80 := by
  rw [decode_eq_command_iff, encode, pack_eq_iff, and_eq_iff_fields]
  change _ ↔ fieldOp w &&& .allOnes 4 = 0x2#4 ∧ fieldRsv w &&& .allOnes 12 = 0#12 ∧ fieldA w &&& 0#16 = 0#16 ∧
    fieldB w &&& 0#16 = 0#16 ∧ fieldC w &&& .allOnes 16 = 0#16 ∧ fieldD w &&& .allOnes 16 = 0#16
  simp only [BitVec.and_allOnes, BitVec.and_zero]

theorem decode_eq_setPixel_iff :
    decode w = .command (.setPixel (fieldA w) (fieldB w) (fieldC w) (fieldD w)) ↔
      w &&& 0x0000000000000000FFFF#80 = 0x00000000000000000003#80 := by
  rw [decode_eq_command_iff, encode, pack_eq_iff, and_eq_iff_fields]
  change _ ↔ fieldOp w &&& .allOnes 4 = 0x3#4 ∧ fieldRsv w &&& .allOnes 12 = 0#12 ∧ fieldA w &&& 0#16 = 0#16 ∧
    fieldB w &&& 0#16 = 0#16 ∧ fieldC w &&& 0#16 = 0#16 ∧ fieldD w &&& 0#16 = 0#16
  simp only [BitVec.and_allOnes, BitVec.and_zero]

theorem decode_eq_setBc_iff :
    decode w = .command (.setBc (correctionOf (fieldA w)) (correctionOf (fieldB w)) (correctionOf (fieldC w))) ↔
      w &&& 0xFFFFFF80FF80FF80FFFF#80 = 0x00000000000000000004#80 := by
  rw [decode_eq_command_iff, encode, pack_eq_iff, and_eq_iff_fields]
  change _ ↔ fieldOp w &&& .allOnes 4 = 0x4#4 ∧ fieldRsv w &&& .allOnes 12 = 0#12 ∧ fieldA w &&& 0xFF80#16 = 0#16 ∧
    fieldB w &&& 0xFF80#16 = 0#16 ∧ fieldC w &&& 0xFF80#16 = 0#16 ∧ fieldD w &&& .allOnes 16 = 0#16
  simp only [BitVec.and_allOnes, setWidth_correctionOf_iff, and_correctionMask_eq_zero_iff]

/-- The operands of a command are in its word's fields (R71, R73). -/
theorem operands_of_decode {i : Instr} (h : decode w = .command i) :
    i = .begin ∨ i = .setChannel (fieldA w) (fieldB w) ∨
    i = .setPixel (fieldA w) (fieldB w) (fieldC w) (fieldD w) ∨
    i = .setBc (correctionOf (fieldA w)) (correctionOf (fieldB w)) (correctionOf (fieldC w)) ∨ i = .transmit := by
  have hw := encode_of_decode h
  cases i with
  | begin => simp
  | setChannel idx val =>
    obtain ⟨_, _, rfl, rfl, _⟩ := pack_eq_iff.mp hw
    simp
  | setPixel p r g b =>
    obtain ⟨_, _, rfl, rfl, rfl, rfl⟩ := pack_eq_iff.mp hw
    simp
  | setBc r g b =>
    obtain ⟨_, _, ha, hb, hc, _⟩ := pack_eq_iff.mp hw
    simp [ha, hb, hc, correctionOf_setWidth]
  | transmit => simp

end Rows

/-- The three correction values of a word, as stretches of its bits (R73). -/
theorem correctionOf_fields (w : HostWord) : correctionOf (fieldA w) = w.extractLsb' 16 7 ∧
    correctionOf (fieldB w) = w.extractLsb' 32 7 ∧ correctionOf (fieldC w) = w.extractLsb' 48 7 :=
  ⟨extractLsb'_extractLsb' w (by decide), extractLsb'_extractLsb' w (by decide),
    extractLsb'_extractLsb' w (by decide)⟩

/-- The bits above the three correction values of a word, as stretches of its bits (R73). -/
theorem aboveCorrection_fields (w : HostWord) : aboveCorrection (fieldA w) = w.extractLsb' 23 9 ∧
    aboveCorrection (fieldB w) = w.extractLsb' 39 9 ∧ aboveCorrection (fieldC w) = w.extractLsb' 55 9 :=
  ⟨extractLsb'_extractLsb' w (by decide), extractLsb'_extractLsb' w (by decide),
    extractLsb'_extractLsb' w (by decide)⟩

/-- Settles O3, row by row. -/
theorem wordEncodesExactlyByMatchAndMask : Obligations.WordEncodesExactlyByMatchAndMask := by
  intro w
  obtain ⟨ha, hb, hc⟩ := correctionOf_fields w
  rw [← ha, ← hb, ← hc]
  exact ⟨decode_eq_bare_iff w .begin, decode_eq_setChannel_iff w, decode_eq_setPixel_iff w, decode_eq_setBc_iff w,
    decode_eq_bare_iff w .transmit, fun _ => operands_of_decode w⟩

/-! ### The refusals of R76 -/

theorem illegalOpcode_iff (op : Opcode) : IllegalOpcode op ↔ op = 0x0#4 ∨ 0x6#4 ≤ op := by
  unfold IllegalOpcode
  revert op
  decide

theorem not_illegalOpcode_iff (op : Opcode) : ¬IllegalOpcode op ↔ 0x1#4 ≤ op ∧ op ≤ 0x5#4 := by
  unfold IllegalOpcode
  revert op
  decide

theorem decodeBare_eq_refuse {i : Instr} {w : HostWord} {r : RefuseReason} : decodeBare i w = .refuse r ↔
    r = .reservedField ∧ w.extractLsb' 16 64 ≠ 0#64 := by
  rw [Ne, operands_eq_zero_iff, eq_comm (a := r)]
  unfold decodeBare
  split_ifs with h <;> simp [h]

theorem decodeSetChannel_eq_refuse {w : HostWord} {r : RefuseReason} : decodeSetChannel w = .refuse r ↔
    r = .reservedField ∧ w.extractLsb' 48 32 ≠ 0#32 := by
  rw [Ne, operandsCD_eq_zero_iff, eq_comm (a := r)]
  unfold decodeSetChannel
  split_ifs with h <;> simp [h]

/-- Some correction value of a word is above 127 (R74, R76). -/
def CorrectionAbove (w : HostWord) : Prop :=
  w.extractLsb' 23 9 ≠ 0#9 ∨ w.extractLsb' 39 9 ≠ 0#9 ∨ w.extractLsb' 55 9 ≠ 0#9

theorem decodeSetBc_eq_refuse {w : HostWord} {r : RefuseReason} : decodeSetBc w = .refuse r ↔
    (r = .reservedField ∧ fieldD w ≠ 0#16) ∨ (r = .bcRange ∧ fieldD w = 0#16 ∧ CorrectionAbove w) := by
  obtain ⟨ha, hb, hc⟩ := aboveCorrection_fields w
  rw [CorrectionAbove, ← ha, ← hb, ← hc, eq_comm (a := r), eq_comm (a := r)]
  unfold decodeSetBc
  split_ifs with hd hrange
  · simp [hd]
  · simp [not_not.mp hd, hrange]
  · simp [hd, hrange]

/-- A word of a legal opcode has a bit set that its row reserves (R71, R73, R76). -/
def ReservedBitSet (w : HostWord) : Prop :=
  fieldRsv w ≠ 0#12 ∨ (fieldOp w = 0x1#4 ∧ w.extractLsb' 16 64 ≠ 0#64) ∨
  (fieldOp w = 0x2#4 ∧ w.extractLsb' 48 32 ≠ 0#32) ∨ (fieldOp w = 0x4#4 ∧ fieldD w ≠ 0#16) ∨
  (fieldOp w = 0x5#4 ∧ w.extractLsb' 16 64 ≠ 0#64)

/-- The words refused, each with the one reason that R74's order of the checks gives it. -/
theorem decode_eq_refuse_iff (w : HostWord) (r : RefuseReason) : decode w = .refuse r ↔
    (r = .reservedOpcode ∧ IllegalOpcode (fieldOp w)) ∨
    (r = .reservedField ∧ ¬IllegalOpcode (fieldOp w) ∧ ReservedBitSet w) ∨
    (r = .bcRange ∧ fieldOp w = 0x4#4 ∧ fieldRsv w = 0#12 ∧ fieldD w = 0#16 ∧ CorrectionAbove w) := by
  unfold ReservedBitSet
  obtain ⟨hop, e⟩ | ⟨hop, hrsv, e⟩ | ⟨hrsv, hop, e⟩ | ⟨hrsv, hop, e⟩ | ⟨hrsv, hop, e⟩ | ⟨hrsv, hop, e⟩ | ⟨hrsv, hop, e⟩ :=
    decode_cases w <;> rw [e]
  · have hop4 : fieldOp w ≠ 0x4#4 := fun h => by simp [h, IllegalOpcode] at hop
    simp [hop, hop4, eq_comm]
  · simp [hop, hrsv, eq_comm] -- a nonzero `rsv`
  · simp [hop, hrsv, IllegalOpcode, decodeBare_eq_refuse] -- BEGIN
  · simp [hop, hrsv, IllegalOpcode, decodeSetChannel_eq_refuse] -- SET_CHANNEL
  · simp [hop, hrsv, IllegalOpcode] -- SET_PIXEL, which reserves no operand
  · simp [hop, hrsv, IllegalOpcode, decodeSetBc_eq_refuse] -- SET_BC
  · simp [hop, hrsv, IllegalOpcode, decodeBare_eq_refuse] -- TRANSMIT

/-- Settles O4: of the three disjuncts of a refusal, a reason leaves its own. -/
theorem illegalWordsRefusedByName : Obligations.IllegalWordsRefusedByName := by
  intro w
  have hop := decode_eq_refuse_iff w .reservedOpcode
  have hfield := decode_eq_refuse_iff w .reservedField
  have hrange := decode_eq_refuse_iff w .bcRange
  simp only [reduceCtorEq, true_and, false_and, or_false, false_or] at hop hfield hrange
  rw [illegalOpcode_iff] at hop
  rw [not_illegalOpcode_iff] at hfield
  exact ⟨hop, hfield, hrange⟩

end Sys2Proof
end

section
/-! PROOFS. The command port and a whole transmission (30_encoding.md R70, R87, 41_transmit.md R135): an idle block takes the
command presented, a busy one does not look at the port, and Start, the `28N` shift steps in one run, Unmask and Settle
follow each other. -/

namespace Sys2Proof.Machine

/-! ### The command port -/

/-- Settles O8: it is the equation of an idle step that takes a command. -/
theorem stepExecutesDecodedCommand : Obligations.StepExecutesDecodedCommand :=
  fun _ _ _ _ => step_of_command

theorem step_refused {s : State} (h : s.phase = .refused) : step s = .refused .haltedByRefusal := by
  simp [step, nextAction, h]

theorem sendByte_withPort (v : Byte) (p : List HostWord) (s : State) :
    sendByte v { s with port := p } = { sendByte v s with port := p } := by
  rw [sendByte_eq, sendByte_eq v s]

theorem shiftStep_withPort (n : Nat) (j : Fin 28) (p : List HostWord) (s : State) :
    shiftStep n j { s with port := p } = mapNext (fun t => { t with port := p }) (shiftStep n j s) := by
  unfold shiftStep
  split
  · exact congrArg (fun u : State => Host.Outcome.next (u.goto _)) (sendByte_withPort _ p s)
  · rfl

theorem Phase.busy_cases {p : Phase} (h : p.busy = true) : (∃ n j, p = .shift n j) ∨ p = .unmask ∨ p = .settle := by
  cases p <;> simp at h ⊢

/-- A busy block neither takes nor looks at what the host has to present (R70, R135). -/
theorem step_withPort_of_busy {s : State} (p : List HostWord) (h : s.phase.busy = true) :
    step { s with port := p } = mapNext (fun t => { t with port := p }) (step s) := by
  obtain ⟨n, j, hp⟩ | hp | hp := Phase.busy_cases h
  · simpa [step, nextAction, hp] using shiftStep_withPort n j p s
  · rw [step_unmask hp]
    exact step_unmask (s := { s with port := p }) hp
  · rw [step_settle hp]
    exact step_settle (s := { s with port := p }) hp

/-- Settles O10, clause by clause. -/
theorem commandsAcceptedOnlyWhenIdle : Obligations.CommandsAcceptedOnlyWhenIdle := by
  refine ⟨fun s p => step_withPort_of_busy p, ?_, fun s => step_idle_nil⟩
  rintro s t (hp | hp) h
  · rw [step_faulted hp] at h
    cases h
  · rw [step_refused hp] at h
    cases h

/-! ### The whole transmission -/

/-- The Start step of an idle block that is presented TRANSMIT and passes its checks (R132, R133). -/
theorem step_start {s : State} {rest : List HostWord} (hp : s.phase = .idle) (hport : s.port = encode .transmit :: rest)
    (ha : s.config.allocOk = true) (hb : s.begun = true) : step s = .next (startTransmit { s with port := rest }) :=
  (step_of_command hp hport (decode_encode _)).trans (exec_transmit_ready ha hb)

/-- From `Unmask` two steps lead to `Idle`: the mask released, then the settle window (R141, R142). -/
theorem run_unmask_settle {s : State} (hp : s.phase = .unmask) :
    core.run 2 s = .next { s with
      phase := .idle, irqMaskReq := false,
      hist := s.hist ++ [.irqMask false, .settleBegin s.config.settle, .settleEnd] } := by
  rw [run_succ 1 (step_unmask hp), run_succ 0 (step_settle rfl)]
  simp [Host.Core.run, setIrqMask, State.emit, State.goto]

/-- A transmission from its Start to the end of the last chip frame (R87, R135). -/
theorem run_shift_all {s : State} (ha : s.config.allocOk = true) (hn : 1 ≤ s.config.chainLength) :
    ∃ t : State, core.run (28 * s.config.chainLength) (startTransmit s) = .next t ∧ t.phase = .unmask ∧
      t.hist = s.hist ++ .irqMask true :: (chainBytes (withCommandWord s)).flatMap (byteEvents s.config.mode) ∧
      t = { startTransmit s with phase := .unmask, clk := t.clk, dat := t.dat, hist := t.hist } := by
  have hphase : (startTransmit s).phase = phaseAt s.config.chainLength 0 := by
    rw [phaseAt, if_pos (by omega)]
    rfl
  obtain ⟨t, hrun, htp, hhist, hframe⟩ := run_shift (s := startTransmit s) ha hphase (Nat.zero_add _).le
  have hunmask : t.phase = .unmask := by
    rw [htp, phaseAt, if_neg (by simp)]
  rw [hunmask] at hframe
  refine ⟨t, hrun, hunmask, ?_, hframe⟩
  have hbytes : ∀ k, chainByte (startTransmit s) (0 + k) = chainByte (withCommandWord s) k := fun k => by
    rw [Nat.zero_add]
    exact chainByte_congr rfl rfl k
  rw [hhist, List.map_congr_left fun k _ => hbytes k, startTransmit_hist, List.append_assoc]
  rfl

/-- Settles O32: the four parts of the run, one after the other. -/
theorem transmitSendsTheWholeChain : Obligations.TransmitSendsTheWholeChain := by
  intro s rest hp hport ha hb hn
  obtain ⟨u, hshift, hunmask, hhist, hframe⟩ := run_shift_all (s := { s with port := rest }) ha hn
  have hrun : core.run (transmitSteps s) s = core.run 2 u := by
    rw [transmitSteps, run_succ _ (step_start hp hport ha hb)]
    exact run_add hshift
  refine ⟨_, hrun.trans (run_unmask_settle hunmask), ?_, ?_⟩
  · change u.hist ++ _ = _
    rw [hhist, hframe, transmitEvents, List.append_assoc]
    rfl
  · rw [hframe]
    rfl

end Sys2Proof.Machine
end

section
/-! PROOFS. The wire format (30_encoding.md R81 to R89): the command word is the concatenation of its fields, from which each
field, the fixed header and the first byte are read off, and each byte of a chip frame has its place. -/

namespace Sys2Proof.Machine

/-! ### The command word -/

/-- The reference's sequence on unbounded integers is the concatenation's own value, so `trunc_32` drops nothing (R84). -/
theorem buildCmd_eq_append (r g b : Correction) :
    buildCmd r g b = (0b100101#6 ++ 0b10110#5 ++ r ++ g ++ b : BitVec 32) := by
  have hval : (((((magic <<< 5 ||| controlFlags) <<< 7) ||| r.toNat) <<< 7) ||| g.toNat) <<< 7 ||| b.toNat =
      (0b100101#6 ++ 0b10110#5 ++ r ++ g ++ b : BitVec 32).toNat := by
    simp only [BitVec.toNat_append]
    rfl
  rw [buildCmd, hval, BitVec.ofNat_toNat, BitVec.setWidth_eq]

/-- Settles O21: both forms of the word. -/
theorem commandWordIsConcatenation : Obligations.CommandWordIsConcatenation :=
  fun r g b => ⟨buildCmd_eq_append r g b, buildCmd_eq_or r g b⟩

/-- The fixed header of a command word, before its 21 bits of correction values (R83). -/
theorem buildCmd_eq_header_append (r g b : Correction) :
    buildCmd r g b = (0b10010110110#11 ++ (r ++ g ++ b) : BitVec 32) := by
  rw [buildCmd_eq_append, BitVec.append_assoc', BitVec.append_assoc']
  rfl

theorem extractLsb'_corrections (r g b : Correction) :
    (r ++ g ++ b).extractLsb' 14 7 = r ∧ (r ++ g ++ b).extractLsb' 7 7 = g ∧ (r ++ g ++ b).extractLsb' 0 7 = b := by
  refine ⟨?_, ?_, BitVec.extractLsb'_append_eq_right⟩
  · rw [BitVec.extractLsb'_append_eq_of_le (by decide)]
    exact BitVec.extractLsb'_append_eq_left
  · rw [BitVec.extractLsb'_append_eq_of_le (by decide)]
    exact BitVec.extractLsb'_append_eq_right

/-- A stretch of bits inside the header. -/
theorem extractLsb'_buildCmd_header (r g b : Correction) (start len : Nat) :
    (buildCmd r g b).extractLsb' (21 + start) len = (0b10010110110#11).extractLsb' start len := by
  rw [buildCmd_eq_header_append, BitVec.extractLsb'_append_eq_of_le (by omega), Nat.add_sub_cancel_left]

theorem getLsbD_buildCmd_header (r g b : Correction) (i : Nat) :
    (buildCmd r g b).getLsbD (21 + i) = (0b10010110110#11).getLsbD i := by
  rw [buildCmd_eq_header_append, BitVec.getLsbD_append, if_neg (by omega), Nat.add_sub_cancel_left]

theorem extractLsb'_buildCmd_corrections (r g b : Correction) {start len : Nat} (h : start + len ≤ 21) :
    (buildCmd r g b).extractLsb' start len = (r ++ g ++ b).extractLsb' start len := by
  rw [buildCmd_eq_header_append, BitVec.extractLsb'_append_eq_of_add_le h]

theorem buildCmd_and_headerMask (r g b : Correction) : buildCmd r g b &&& 0xFFE00000#32 = 0x96C00000#32 := by
  calc buildCmd r g b &&& 0xFFE00000#32
    _ = (0b10010110110#11 ++ (r ++ g ++ b) : BitVec 32) &&& (BitVec.allOnes 11 ++ 0#21) := by
      rw [buildCmd_eq_header_append]
      rfl
    _ = 0b10010110110#11 ++ 0#21 := by rw [BitVec.and_append, BitVec.and_allOnes, BitVec.and_zero]

/-- Settles O22: the header and its bits lie above bit 20, the correction values below. -/
theorem commandWordFieldsAndHeader : Obligations.CommandWordFieldsAndHeader := by
  intro r g b
  obtain ⟨hr, hg, hb⟩ := extractLsb'_corrections r g b
  have hheader := extractLsb'_buildCmd_header r g b
  have hbit := getLsbD_buildCmd_header r g b
  exact ⟨hheader 5 6, hbit 4, hbit 3, hbit 2, hbit 1, hbit 0,
    (extractLsb'_buildCmd_corrections r g b (by decide)).trans hr,
    (extractLsb'_buildCmd_corrections r g b (by decide)).trans hg,
    (extractLsb'_buildCmd_corrections r g b (by decide)).trans hb,
    hheader 0 11, buildCmd_and_headerMask r g b, hheader 3 8⟩

/-- Settles O23: reset leaves the three registers at 127, so the word is one closed value. -/
theorem defaultCommandWord : Obligations.DefaultCommandWord := by
  intro c d
  have hword : buildCmd 127#7 127#7 127#7 = 0x96DFFFFF#32 := by decide
  refine ⟨hword, ?_⟩
  change (List.range 4).map (commandByte (buildCmd 127#7 127#7 127#7)) = _
  rw [hword]
  decide

/-! ### The chip frame -/

theorem frameByte_of_lt (s : State) (n : Nat) {j : Nat} (hj : j < 4) : frameByte s n j = commandByte s.cmdSnap j := by
  rw [frameByte, if_pos hj]

theorem frameByte_high (s : State) (n : Nat) {c : Nat} (hc : c ≤ 11) :
    frameByte s n (4 + 2 * (11 - c)) = highByte (bufRead s (chipSlot n c)) := by
  have hchan : frameChannel (4 + 2 * (11 - c)) = c := by
    unfold frameChannel
    omega
  rw [frameByte, if_neg (by omega), if_pos (by omega), hchan]

theorem frameByte_low (s : State) (n : Nat) {c : Nat} (hc : c ≤ 11) :
    frameByte s n (5 + 2 * (11 - c)) = lowByte (bufRead s (chipSlot n c)) := by
  have hchan : frameChannel (5 + 2 * (11 - c)) = c := by
    unfold frameChannel
    omega
  rw [frameByte, if_neg (by omega), if_neg (by omega), hchan]

/-- Settles O24: the command word's bytes, then each channel's high and low byte. -/
theorem frameBytePositions : Obligations.FrameBytePositions := fun s n =>
  ⟨fun _ hj => frameByte_of_lt s n hj, fun _ hc => ⟨frameByte_high s n hc, frameByte_low s n hc⟩⟩

end Sys2Proof.Machine
end

section
/-! PROOFS. The assembler (30_encoding.md R78 to R80): BLANKALL's commands write 0 to each transmitted slot in turn, and the
worked encodings, with the words of the vectors (95_test_vectors.md section 2.1). -/

namespace Sys2Proof.Machine

/-! ### BLANKALL (R79, R104) -/

/-- The SET_CHANNEL command that writes 0 to slot `i`. -/
def blankSlot (i : Nat) : Instr := .setChannel (BitVec.ofNat 16 i) 0#16

theorem assembleSetch_zero {i : Nat} (h : i < 65536) : assembleSetch i 0 = some (blankSlot i) := by
  simp [assembleSetch, operand16, h, blankSlot]

theorem collect_map_some {α : Type} (f : α → Instr) (xs : List α) :
    collect (xs.map fun x => some (f x)) = some (xs.map f) := by
  induction xs with
  | nil => rfl
  | cons x xs ih => simp [collect, ih]

theorem assemble_blankall {n : Nat} (h : n ≤ 65536) : assemble n .blankall = some ((List.range n).map blankSlot) := by
  have hline : ∀ i ∈ List.range n, assembleSetch i 0 = some (blankSlot i) := fun i hi =>
    assembleSetch_zero (Nat.lt_of_lt_of_le (List.mem_range.mp hi) h)
  rw [assemble, List.map_congr_left hline, collect_map_some]

theorem exec_blankSlot {s : State} {i : Nat} (ha : s.config.allocOk = true) (hi : i < s.nch) (hn : s.nch ≤ 65536) :
    exec (blankSlot i) s = .next { s with buf := memWrite s.buf i 0#16 } := by
  have hindex : indexOf (BitVec.ofNat 16 i) = i := by
    rw [indexOf, BitVec.toNat_ofNat, Nat.mod_eq_of_lt (by omega)]
  rw [← bufWrite_below hi]
  simp [exec, blankSlot, execSetChannel, withBuffer, ha, hindex]

/-- Blanking slots one after the other writes nothing but the buffer, and leaves exactly those slots at 0. -/
theorem execAll_blankSlots {is : List Nat} : ∀ {s : State}, s.config.allocOk = true → s.buf.wf = true →
    s.nch ≤ 65536 → (∀ i ∈ is, i < s.nch) →
    ∃ t : State, execAll (is.map blankSlot) s = .next t ∧
      (∀ i, bufRead t i = if i ∈ is then 0#16 else bufRead s i) ∧ t = { s with buf := t.buf } := by
  induction is with
  | nil => exact fun _ _ _ _ => ⟨_, rfl, fun _ => rfl, rfl⟩
  | cons i is ih =>
    intro s ha hw hn hmem
    obtain ⟨hi, hrest⟩ := List.forall_mem_cons.mp hmem
    obtain ⟨t, hexec, hread, hframe⟩ := ih (s := { s with buf := memWrite s.buf i 0#16 }) ha (memWrite_wf hw) hn hrest
    refine ⟨t, (execAll_cons (exec_blankSlot ha hi hn) _).trans hexec, fun j => ?_, hframe⟩
    rw [hread]
    by_cases hj : j = i
    · subst hj
      simp [bufRead, memRead_memWrite_same hw]
    · simp [bufRead, memRead_memWrite_other _ hj, hj]

/-- Settles O7: BLANKALL blanks the slots below `NCH`. -/
theorem blankAllBlanksEveryTransmittedSlot : Obligations.BlankAllBlanksEveryTransmittedSlot := by
  intro s ha hw hn
  obtain ⟨t, hexec, hread, hframe⟩ := execAll_blankSlots ha hw hn fun i => List.mem_range.mp
  refine ⟨_, t, assemble_blankall hn, hexec, fun i hi => ?_, fun i hi => ?_, hframe⟩
  · rw [hread, if_pos (List.mem_range.mpr hi)]
  · rw [hread, if_neg (by simpa using hi)]

/-! ### Words written out by the spec -/

/-- Settles O5, each word by evaluation of `decode`. -/
theorem decodeOfSpecWords : Obligations.DecodeOfSpecWords := by
  unfold Obligations.DecodeOfSpecWords
  decide

/-- Settles O6, each line by evaluation of the assembler. -/
theorem assemblerWorkedEncodings : Obligations.AssemblerWorkedEncodings := by
  unfold Obligations.AssemblerWorkedEncodings
  decide

end Sys2Proof.Machine
end

section
/-! PROOFS. BEGIN (40_buffer_ops.md R101 to R103, 92_eei_decisions.md D14): its effect in each case, its result, and that a
second BEGIN changes nothing. -/

namespace Sys2Proof.Machine

variable {s : State}

/-! ### The set-up of the lines, an equation per case (R101, R102) -/

theorem setUpLines_of_undriven {clkPin datPin : PinId} (hm : s.config.mode = .bitBang clkPin datPin)
    (hc : s.clk = .undriven) : setUpLines s = drivePins s := by
  simp [setUpLines, hm, hc]

theorem setUpLines_of_not_begun (hm : s.config.mode = .hwSerial) (hb : s.begun = false) :
    setUpLines s = s.emit .busInit := by
  simp [setUpLines, hm, hb]

theorem setUpLines_of_begun (hm : s.config.mode = .hwSerial) (hb : s.begun = true) : setUpLines s = s := by
  simp [setUpLines, hm, hb]

/-- A successful BEGIN leaves no set-up to do: the pins are driven, or `begun` tells that the bus is initialized (D14). -/
theorem setUpLines_after_begin (s : State) :
    setUpLines ((setUpLines s).markBegun.withBeginOk true) = (setUpLines s).markBegun.withBeginOk true := by
  obtain ⟨_, _, _, _, hm, _, e⟩ | ⟨hm, _, e⟩ | ⟨⟨_, _, hm, hc⟩ | ⟨hm, _⟩, e⟩ := setUpLines_cases s <;> rw [e]
  · exact setUpLines_of_driven hm (by simp) -- the pins were driven now
  · exact setUpLines_of_begun hm rfl -- the bus was initialized now
  · exact setUpLines_of_driven hm hc -- the pins were driven before
  · exact setUpLines_of_begun hm rfl -- the bus was initialized before

/-! ### BEGIN with and without a buffer (R101) -/

theorem exec_begin_of_buffer (ha : s.config.allocOk = true) :
    exec .begin s = .next ((setUpLines s).markBegun.withBeginOk true) := by
  simp [exec, execBegin, ha]

theorem exec_begin_of_no_buffer (ha : s.config.allocOk = false) : exec .begin s = .next (s.withBeginOk false) := by
  simp [exec, execBegin, ha]

theorem State.markBegun_of_begun (hb : s.begun = true) : s.markBegun = s := by
  rw [State.markBegun, ← hb]

/-- Settles O12, by the cases of the set-up; the levels are the two free draws. -/
theorem beginEffect : Obligations.BeginEffect := by
  intro s
  refine ⟨Config.freeLevel s.draws, Config.freeLevel (s.draws + 1), exec_begin_of_no_buffer, fun ha _ _ hm hc => ?_,
    fun ha _ _ hm hc => ?_, fun ha hm hb => ?_, fun ha hm hb => ?_⟩ <;> rw [exec_begin_of_buffer ha]
  · rw [setUpLines_of_undriven hm hc]; rfl
  · rw [setUpLines_of_driven hm hc]; rfl
  · rw [setUpLines_of_not_begun hm hb]; rfl
  · rw [setUpLines_of_begun hm hb, State.markBegun_of_begun hb]; rfl

/-- Settles O13: what BEGIN writes besides the set-up it writes again, and the set-up is done. -/
theorem beginAgainChangesNothing : Obligations.BeginAgainChangesNothing := by
  intro s t h
  cases ha : s.config.allocOk with
  | false =>
    rw [exec_begin_of_no_buffer ha] at h
    cases h
    exact exec_begin_of_no_buffer ha
  | true =>
    rw [exec_begin_of_buffer ha] at h
    cases h
    rw [exec_begin_of_buffer (by simpa using ha), setUpLines_after_begin]
    rfl

/-- Settles O11: BEGIN writes `begin_ok` with the value of the `ALLOC_OK` it tests. -/
theorem beginResultIsAllocOk : Obligations.BeginResultIsAllocOk := by
  intro s
  cases ha : s.config.allocOk with
  | false => exact ⟨_, exec_begin_of_no_buffer ha, rfl⟩
  | true => exact ⟨_, exec_begin_of_buffer ha, rfl⟩

end Sys2Proof.Machine
end

section
/-! PROOFS. SET_CHANNEL, SET_PIXEL and SET_BC (40_buffer_ops.md R104 to R110): what each writes, at which indices, and what it
leaves unchanged. -/

namespace Sys2Proof.Machine

variable {s : State}

/-- `NCH` is twelve channels a chip (R21). -/
theorem nch_eq (s : State) : s.nch = 12 * s.config.chainLength := rfl

/-! ### The writing commands with and without a buffer (R104, R108, R172) -/

theorem withBuffer_of_buffer {op : Opcode} {effect : State → State} (ha : s.config.allocOk = true) :
    withBuffer op effect s = .next (effect s) := by
  simp [withBuffer, ha]

theorem withBuffer_of_no_buffer {op : Opcode} {effect : State → State} (ha : s.config.allocOk = false) :
    withBuffer op effect s = .next { s with fault := .noBuffer, faultOp := op, phase := .faulted } := by
  simp [withBuffer, ha, raiseFault, State.recordFault, State.goto]

theorem exec_setChannel_of_buffer (ha : s.config.allocOk = true) (idx : BitVec 16) (v : Value) :
    exec (.setChannel idx v) s = .next (bufWrite idx.toNat v s) :=
  withBuffer_of_buffer ha

theorem exec_setPixel_of_buffer (ha : s.config.allocOk = true) (p : BitVec 16) (r g b : Value) :
    exec (.setPixel p r g b) s = .next (writePixel p r g b s) :=
  withBuffer_of_buffer ha

/-! ### SET_CHANNEL (R104 to R107) -/

/-- Settles O14, by the range the index lies in. -/
theorem setChannelByIndex : Obligations.SetChannelByIndex := by
  intro s idx val hw
  rw [← nch_eq s]
  refine ⟨withBuffer_of_no_buffer, fun ha hlt => ?_, fun ha heq => ?_, fun ha hgt => ?_⟩
  · refine ⟨_, exec_setChannel_of_buffer ha idx val, ?_, fun i hi => ?_, ?_, fun hheld => ?_⟩
    · rw [bufRead_bufWrite hw, if_pos ⟨rfl, hlt⟩]
    · rw [bufRead_bufWrite hw, if_neg fun h => hi h.1]
    · rw [bufWrite_below hlt]
    · exact bufWrite_of_slotHolds hw ⟨fun _ => hheld, fun h => absurd h (Nat.ne_of_lt hlt)⟩
  · rw [exec_setChannel_of_buffer ha, bufWrite_boundary heq]
  · rw [exec_setChannel_of_buffer ha, bufWrite_beyond hgt]

/-! ### SET_PIXEL (R108) -/

theorem bufWrite_spare (i : Nat) (v : Value) (s : State) :
    (bufWrite i v s).spare = if i = s.nch then v else s.spare := by
  obtain ⟨hi, e⟩ | ⟨hi, e⟩ | ⟨hi, e⟩ := bufWrite_cases i v s <;> rw [e]
  · rw [if_neg (by omega)]
  · rw [if_pos hi]
  · rw [if_neg (by omega)]

theorem bufWrite_boundaryWritten_eq (i : Nat) (v : Value) (s : State) :
    (bufWrite i v s).boundaryWritten = (s.boundaryWritten || decide (i = s.nch)) := by
  obtain ⟨hi, e⟩ | ⟨hi, e⟩ | ⟨hi, e⟩ := bufWrite_cases i v s <;> rw [e]
  · simp [Nat.ne_of_gt hi]
  · simp [hi]
  · simp [Nat.ne_of_lt hi]

/-- `NCH` is a multiple of 3, so of a pixel's three indices only the first can be the boundary slot's. -/
theorem pixelSlot_eq_nch_iff (p : BitVec 16) {k : Nat} (hk : k < 3) :
    pixelSlot p k = s.nch ↔ k = 0 ∧ p.toNat = 4 * s.config.chainLength := by
  rw [nch_eq, pixelSlot, indexOf]
  omega

theorem writePixel_spare (p : BitVec 16) (r g b : Value) (s : State) :
    (writePixel p r g b s).spare = if p.toNat = 4 * s.config.chainLength then r else s.spare := by
  simp [writePixel, bufWrite_spare, pixelSlot_eq_nch_iff]

theorem writePixel_boundaryWritten (p : BitVec 16) (r g b : Value) (s : State) :
    (writePixel p r g b s).boundaryWritten =
      (s.boundaryWritten || decide (p.toNat = 4 * s.config.chainLength)) := by
  simp [writePixel, bufWrite_boundaryWritten_eq, pixelSlot_eq_nch_iff]

/-- SET_PIXEL leaves every slot alone that is not one of the pixel's three below `NCH`. -/
theorem bufRead_writePixel_other {p : BitVec 16} {r g b : Value} {i : Nat} (hw : s.buf.wf = true)
    (hi : ∀ k < 3, i = pixelSlot p k → s.nch ≤ i) : bufRead (writePixel p r g b s) i = bufRead s i := by
  have hmiss : ∀ k < 3, ¬(i = pixelSlot p k ∧ pixelSlot p k < s.nch) := fun k hk ⟨h, hlt⟩ =>
    Nat.not_lt.mpr (hi k hk h) (h ▸ hlt)
  rw [writePixel, bufRead_bufWrite (bufWrite_wf (bufWrite_wf hw)), bufRead_bufWrite (bufWrite_wf hw),
    bufRead_bufWrite hw, bufWrite_nch, bufWrite_nch, if_neg (hmiss 2 (by decide)), if_neg (hmiss 1 (by decide)),
    if_neg (hmiss 0 (by decide))]

/-- What each slot below `NCH` reads after SET_PIXEL. -/
theorem bufRead_writePixel {p : BitVec 16} {r g b : Value} {i : Nat} (hw : s.buf.wf = true) (hi : i < s.nch) :
    bufRead (writePixel p r g b s) i = if i = 3 * p.toNat then r else if i = 3 * p.toNat + 1 then g
      else if i = 3 * p.toNat + 2 then b else bufRead s i := by
  obtain ⟨⟨hr, _⟩, ⟨hg, _⟩, ⟨hb, _⟩⟩ := slotHolds_writePixel p r g b hw
  have hnch : (writePixel p r g b s).nch = s.nch := by simp [State.nch]
  rw [hnch] at hr hg hb
  split_ifs with h0 h1 h2
  · subst h0; exact hr hi
  · subst h1; exact hg hi
  · subst h2; exact hb hi
  · refine bufRead_writePixel_other hw fun k hk h => ?_
    rw [pixelSlot, indexOf] at h
    omega

/-- Settles O16, by what the three slot writes do to the slots, the boundary slot and its flag. -/
theorem setPixelWritesThreeSlots : Obligations.SetPixelWritesThreeSlots := by
  intro s p r g b hw
  refine ⟨withBuffer_of_no_buffer, fun ha => ⟨_, exec_setPixel_of_buffer ha p r g b, fun i hi => ?_, fun i hi => ?_,
    writePixel_spare p r g b s, writePixel_boundaryWritten p r g b s, writePixel_frame p r g b s⟩⟩
  · exact bufRead_writePixel hw hi
  · exact bufRead_writePixel_other hw fun _ _ _ => hi

/-! ### SET_PIXEL as three SET_CHANNELs (R109) -/

theorem exec_setChannel_ofNat {i : Nat} (ha : s.config.allocOk = true) (hi : i < 65536) (v : Value) :
    exec (.setChannel (BitVec.ofNat 16 i) v) s = .next (bufWrite i v s) := by
  rw [exec_setChannel_of_buffer ha, BitVec.toNat_ofNat, Nat.mod_eq_of_lt hi]

/-- Settles O17: each SET_CHANNEL is one of the three slot writes, and none of them takes the buffer away. -/
theorem setPixelIsThreeSetChannels : Obligations.SetPixelIsThreeSetChannels := by
  intro s p r g b ha
  refine ⟨exec_setPixel_of_buffer ha p r g b, fun hfit => ?_⟩
  rw [exec_setPixel_of_buffer ha, execAll_cons (exec_setChannel_ofNat ha (by omega) r),
    execAll_cons (exec_setChannel_ofNat (by simpa using ha) (by omega) g),
    execAll_cons (exec_setChannel_ofNat (by simpa using ha) hfit b)]
  rfl

/-! ### SET_BC (R110) -/

/-- Settles O19: SET_BC has no check to fail; the example's word by evaluation. -/
theorem setBcWritesThreeRegisters : Obligations.SetBcWritesThreeRegisters :=
  ⟨fun _ _ _ _ => rfl, by decide⟩

end Sys2Proof.Machine
end

section
/-! PROOFS. The single steps of a transmission (41_transmit.md R132 to R147): TRANSMIT's checks and Start, the byte primitives,
the transitions of the state machine, and what none of the steps writes. -/

namespace Sys2Proof.Machine

/-! ### TRANSMIT's own step (R132, R133) -/

theorem exec_transmit_of_no_buffer {s : State} (ha : s.config.allocOk = false) :
    exec .transmit s = .next (raiseFault .noBuffer 0x5#4 s) := by
  simp [exec, execTransmit, ha, Instr.opcode]

theorem exec_transmit_of_not_begun {s : State} (ha : s.config.allocOk = true) (hb : s.begun = false) :
    exec .transmit s = .next (raiseFault .notBegun 0x5#4 s) := by
  simp [exec, execTransmit, ha, hb, Instr.opcode]

/-- Settles O26: each failed check is a fault entry, which writes the fault registers and the phase. -/
theorem transmitChecksInOrder : Obligations.TransmitChecksInOrder := fun _ =>
  ⟨exec_transmit_of_no_buffer, exec_transmit_of_not_begun⟩

/-- A TRANSMIT that does not fault passed both checks and takes its Start (R132, R133). -/
theorem eq_startTransmit_of_not_faulted {s t : State} (h : exec .transmit s = .next t) (hf : t.phase ≠ .faulted) :
    t = startTransmit s := by
  cases ha : s.config.allocOk with
  | false =>
    rw [exec_transmit_of_no_buffer ha] at h
    cases h
    exact absurd rfl hf
  | true =>
    cases hb : s.begun with
    | false =>
      rw [exec_transmit_of_not_begun ha hb] at h
      cases h
      exact absurd rfl hf
    | true =>
      rw [exec_transmit_ready ha hb] at h
      cases h
      rfl

/-! ### The frame of a transmission's steps (R147) -/

/-- A byte, the release of the mask and the settle window write the phase, the lines, the mask request and the history. -/
theorem step_frame_of_busy {s t : State} (hb : s.phase.busy = true) (h : step s = .next t) :
    t = { s with phase := t.phase, clk := t.clk, dat := t.dat, irqMaskReq := t.irqMaskReq, hist := t.hist } := by
  obtain ⟨hp, _⟩ | ⟨_, _, _, hp, _⟩ | ⟨_, _, _, hp, _⟩ | ⟨_, _, _, _, _, rfl⟩ | ⟨_, rfl⟩ | ⟨_, rfl⟩ := step_next_cases h
  · simp [hp] at hb -- waiting
  · simp [hp] at hb -- a word refused
  · simp [hp] at hb -- a command executed
  · rw [sendByte_frame]; rfl -- Shift
  · rfl -- Unmask
  · rfl -- Settle

/-- Settles O37: the frame of a busy step, and of the Start. -/
theorem transmitWritesNoBufferOrStatus : Obligations.TransmitWritesNoBufferOrStatus := by
  refine fun s t => ⟨step_frame_of_busy, fun h hf => ?_⟩
  rw [eq_startTransmit_of_not_faulted h hf]
  rfl

/-- Settles O27: the Start is its equation, and the snapshot is outside the frame of every later step. -/
theorem transmitStarts : Obligations.TransmitStarts := by
  refine ⟨fun s => exec_transmit_ready, fun s t hb h => ?_⟩
  rw [step_frame_of_busy hb h]

/-! ### The byte primitives (R136, R138) -/

/-- The eight bits of a byte leave the clock High and the data line at bit 0, whatever the lines were (R136). -/
theorem linesAfter_byteEvents_bitBang (clkPin datPin : PinId) (v : Byte) (l : Line × Line) :
    linesAfter l (byteEvents (.bitBang clkPin datPin) v) = (.driven .high, .driven (levelOf (v.getLsbD 0))) := rfl

/-- Settles O29: the eight bits' events, and the lines that they leave. -/
theorem bitBangByteIsTwentyFourWrites : Obligations.BitBangByteIsTwentyFourWrites := by
  intro s v clkPin datPin hm
  rw [sendByte_eq, hm, linesAfter_byteEvents_bitBang]
  rfl

/-- Settles O30: a transfer is one event, and it moves no line. -/
theorem hwSerialByteIsOneTransfer : Obligations.HwSerialByteIsOneTransfer := by
  intro s v hm
  rw [sendByte_eq, hm]
  rfl

/-! ### The transitions (R135, R141, R142) -/

/-- One byte of a frame that exists: its events, the next phase, and what the step leaves alone. -/
theorem step_shift_effect {s : State} {n : Nat} {j : Fin 28} (ha : s.config.allocOk = true) (hp : s.phase = .shift n j)
    (hn : n < s.config.chainLength) :
    ∃ t, step s = .next t ∧ t.hist = s.hist ++ byteEvents s.config.mode (frameByte s n j.val) ∧
      t.phase = nextPhase s.config.chainLength n j ∧
      t = { s with phase := t.phase, clk := t.clk, dat := t.dat, hist := t.hist } :=
  ⟨_, step_shift hp ha hn, sendByte_hist _ s, rfl, by rw [sendByte_frame]; rfl⟩

theorem step_settle_effect {s : State} (hp : s.phase = .settle) :
    step s = .next { s with hist := s.hist ++ [.settleBegin s.config.settle, .settleEnd], phase := .idle } := by
  rw [step_settle hp]
  simp [State.emit, State.goto]

/-- Settles O28, transition by transition. -/
theorem stateMachineTransitions : Obligations.StateMachineTransitions := by
  refine fun s ha => ⟨fun rest hp hport hb => step_start hp hport ha hb, fun n j hp hn => ?_, step_unmask,
    step_settle_effect⟩
  obtain ⟨t, hstep, hhist, hphase, hframe⟩ := step_shift_effect ha hp hn
  refine ⟨t, hstep, hhist, fun h => ?_, fun h hmore => ?_, fun h hlast => ?_, hframe⟩
  · rw [hphase, nextPhase_eq, dif_pos h]
  · rw [hphase, nextPhase_eq, dif_neg (by omega), if_pos hmore]
  · rw [hphase, nextPhase_eq, dif_neg (by omega), if_neg (by omega)]

theorem settle_of_bitBang {c : Configuration} {clkPin datPin : PinId} (hm : c.mode = .bitBang clkPin datPin) :
    c.settle = 200 := by
  rw [Configuration.settle, hm, Config.settleBitBang]

theorem settle_of_hwSerial {c : Configuration} (hm : c.mode = .hwSerial) : c.settle = 2 := by
  rw [Configuration.settle, hm, Config.settleHwSerial]

/-- The host ends with its interrupts enabled if it had them so, or re-enables them in any case (R182). -/
theorem hostInterruptsAfter_eq (before : Bool) :
    hostInterruptsAfter before = (before || decide (Config.hostIrqRestore = .reenable)) := by
  unfold hostInterruptsAfter
  cases Config.hostIrqRestore with
  | reenable => simp
  | restore => simp

/-- Settles O31: the two steps' equations, with the window of each mode. -/
theorem unmaskThenSettle : Obligations.UnmaskThenSettle := by
  refine ⟨hostInterruptsAfter_eq, fun s => ⟨step_unmask, fun hp clkPin datPin hm => ?_, fun hp hm => ?_⟩⟩
  · rw [step_settle_effect hp, settle_of_bitBang hm]
  · rw [step_settle_effect hp, settle_of_hwSerial hm]

end Sys2Proof.Machine
end

section
/-! PROOFS. What one TRANSMIT delivers to the chain and how many events it takes (41_transmit.md R139, R148): both are read
off the bytes of its events. -/

namespace Sys2Proof.Machine

/-! ### The bits delivered (R136 to R139) -/

/-- Each bit of the BitBang primitive is sampled once, at its rising clock edge, from any line levels (R136, R137). -/
theorem risingBits_flatMap_append (bs : List Bool) {es : List Event} (hes : ∀ c d, risingBits c d es = []) :
    ∀ c d : Line, risingBits c d ((bs.flatMap fun b => [.clk .low, .dat (levelOf b), .clk .high]) ++ es) = bs := by
  induction bs with
  | nil => exact hes
  | cons b bs ih =>
    intro c d
    have hbit : decide (levelOf b = .high) = b := by cases b <;> rfl
    simp [risingBits, hbit, ih]

/-- In BitBang mode the events of a row of bytes are those of their bits (R136). -/
theorem flatMap_byteEvents_bitBang (clkPin datPin : PinId) (vs : List Byte) :
    vs.flatMap (byteEvents (.bitBang clkPin datPin)) =
      (vs.flatMap bitsOfByte).flatMap fun b => [.clk .low, .dat (levelOf b), .clk .high] := by
  rw [List.flatMap_assoc]
  rfl

/-- The bus clocks out the bits of the bytes it is handed (R138). -/
theorem busBits_flatMap_append (vs : List Byte) {es : List Event} (hes : busBits es = []) :
    busBits ((vs.flatMap fun v => [.byteXfer v]) ++ es) = vs.flatMap bitsOfByte := by
  induction vs with
  | nil => exact hes
  | cons v vs ih => simpa [busBits] using ih

/-- In either mode the events of one TRANSMIT deliver the bits of its bytes, each from its most significant bit. -/
theorem deliveredBits_transmitEvents (s : State) (c d : Line) :
    deliveredBits s.config.mode c d (transmitEvents s) = (chainBytes (withCommandWord s)).flatMap bitsOfByte := by
  rw [transmitEvents, List.cons_append]
  cases s.config.mode with
  | bitBang clkPin datPin =>
    rw [flatMap_byteEvents_bitBang]
    exact risingBits_flatMap_append _ (fun _ _ => rfl) c d
  | hwSerial => exact busBits_flatMap_append _ rfl

/-- Settles O33: the run's events deliver its bytes' bits, and those are the bits of the formula. -/
theorem bothModesDeliverTheFormulaBits : Obligations.BothModesDeliverTheFormulaBits := by
  intro s rest hp hport ha hb hn
  obtain ⟨t, hrun, hhist, _⟩ := transmitSendsTheWholeChain s rest hp hport ha hb hn
  exact ⟨t, transmitEvents s, hrun, hhist,
    (deliveredBits_transmitEvents s s.clk s.dat).trans (frameBytesAreFormulaBits (withCommandWord s))⟩

/-! ### The events counted (R148) -/

theorem length_chainBytes (s : State) : (chainBytes s).length = 28 * s.config.chainLength := by
  simp [chainBytes]

theorem length_byteEvents_bitBang (clkPin datPin : PinId) (v : Byte) :
    (byteEvents (.bitBang clkPin datPin) v).length = 24 := rfl

theorem length_byteEvents_hwSerial (v : Byte) : (byteEvents .hwSerial v).length = 1 := rfl

/-- The BitBang primitive writes pins and does nothing else (R136). -/
theorem writesPin_of_mem_bytes {clkPin datPin : PinId} {vs : List Byte} :
    ∀ e ∈ vs.flatMap (byteEvents (.bitBang clkPin datPin)), e.writesPin = true := by
  intro e he
  rw [flatMap_byteEvents_bitBang] at he
  obtain ⟨b, _, hb⟩ := List.mem_flatMap.mp he
  simp only [List.mem_cons, List.not_mem_nil, or_false] at hb
  obtain rfl | rfl | rfl := hb
  · rfl
  · rfl
  · rfl

/-- The HwSerial primitive hands bytes to the bus and does nothing else (R138). -/
theorem transfersByte_of_mem_bytes {vs : List Byte} :
    ∀ e ∈ vs.flatMap (byteEvents .hwSerial), e.transfersByte = true := by
  intro e he
  obtain ⟨v, _, hv⟩ := List.mem_flatMap.mp he
  rw [List.mem_singleton.mp hv]
  rfl

/-- Events of bytes that take `k` events each. -/
theorem length_flatMap_byteEvents {m : Mode} {k : Nat} (h : ∀ v, (byteEvents m v).length = k) (vs : List Byte) :
    (vs.flatMap (byteEvents m)).length = vs.length * k := by
  simp [List.length_flatMap, h]

/-- The events of one TRANSMIT are those of its bytes and four more: the mask's two and the settle window's two. -/
theorem length_transmitEvents (s : State) : (transmitEvents s).length =
    ((chainBytes (withCommandWord s)).flatMap (byteEvents s.config.mode)).length + 4 := by
  rw [transmitEvents, List.length_append]
  rfl

/-- Settles O34: every byte takes 24 pin events or one transfer, and the chain has `28N` bytes. -/
theorem transmitEventCount : Obligations.TransmitEventCount := by
  intro s rest hp hport ha hb hn
  obtain ⟨t, hrun, hhist, _⟩ := transmitSendsTheWholeChain s rest hp hport ha hb hn
  have hbytes : (chainBytes (withCommandWord s)).length = 28 * s.config.chainLength := length_chainBytes _
  have hall := length_transmitEvents s
  refine ⟨t, transmitEvents s, hrun, hhist, (chainBytes (withCommandWord s)).flatMap (byteEvents s.config.mode), rfl,
    fun clkPin datPin hm => ?_, fun hm => ?_⟩
  · rw [hm] at hall ⊢
    rw [length_flatMap_byteEvents (length_byteEvents_bitBang clkPin datPin)] at hall ⊢
    exact ⟨writesPin_of_mem_bytes, by omega, by omega⟩
  · rw [hm] at hall ⊢
    rw [length_flatMap_byteEvents length_byteEvents_hwSerial] at hall ⊢
    exact ⟨transfersByte_of_mem_bytes, by omega, by omega⟩

end Sys2Proof.Machine
end

section
/-! PROOFS. What a whole transmission leaves behind (41_transmit.md R149, R152): the lines, which follow the events of a run
of any length, and a state from which the next TRANSMIT sends the same. -/

namespace Sys2Proof.Machine

/-! ### The lines follow the events (R36, R131) -/

/-- `t` comes after `s`, and its lines stand where the events between the two left them. -/
def LinesFollow (s t : State) : Prop :=
  ∃ es, t.hist = s.hist ++ es ∧ linesAfter (s.clk, s.dat) es = (t.clk, t.dat)

theorem linesFollow_trans {s t u : State} (h : LinesFollow s t) (h' : LinesFollow t u) : LinesFollow s u := by
  obtain ⟨es, hh, hl⟩ := h
  obtain ⟨es', hh', hl'⟩ := h'
  exact ⟨es ++ es', by rw [hh', hh, List.append_assoc], by rw [linesAfter_append, hl, hl']⟩

/-- An effect that emits nothing and moves no line. -/
theorem linesFollow_of_eq {s t : State} (hh : t.hist = s.hist) (hc : t.clk = s.clk) (hd : t.dat = s.dat) :
    LinesFollow s t :=
  ⟨[], by rw [hh, List.append_nil], by rw [hc, hd]; rfl⟩

theorem linesFollow_begin (s : State) : LinesFollow s ((setUpLines s).markBegun.withBeginOk true) := by
  obtain ⟨c, d, _, _, _, _, e⟩ | ⟨_, _, e⟩ | ⟨_, e⟩ := setUpLines_cases s <;> rw [e]
  · exact ⟨[.pinsDriven c d], rfl, rfl⟩
  · exact ⟨[.busInit], rfl, rfl⟩
  · exact linesFollow_of_eq rfl rfl rfl

theorem exec_linesFollow {i : Instr} {s t : State} (h : exec i s = .next t) : LinesFollow s t := by
  obtain ⟨_, _, _, _, rfl⟩ | ⟨_, _, _, _, _, _, rfl⟩ | ⟨_, _, _, _, rfl⟩ | ⟨_, _, _, rfl⟩ | ⟨_, _, rfl⟩ | ⟨_, _, rfl⟩ |
    ⟨_, _, rfl⟩ | ⟨_, _, _, rfl⟩ := exec_next_cases h
  · rw [bufWrite_frame]; exact linesFollow_of_eq rfl rfl rfl -- SET_CHANNEL
  · rw [writePixel_frame]; exact linesFollow_of_eq rfl rfl rfl -- SET_PIXEL
  · exact linesFollow_of_eq rfl rfl rfl -- SET_BC
  · exact ⟨[.irqMask true], rfl, rfl⟩ -- TRANSMIT, the Start
  · exact linesFollow_begin s -- BEGIN with a buffer
  · exact linesFollow_of_eq rfl rfl rfl -- BEGIN without a buffer
  · exact linesFollow_of_eq rfl rfl rfl -- Fault(NoBuffer)
  · exact linesFollow_of_eq rfl rfl rfl -- Fault(NotBegun)

theorem step_linesFollow {s t : State} (h : step s = .next t) : LinesFollow s t := by
  obtain ⟨_, _, rfl⟩ | ⟨_, _, _, _, _, _, rfl⟩ | ⟨_, rest, _, _, _, _, hexec⟩ | ⟨n, j, _, _, _, rfl⟩ | ⟨_, rfl⟩ |
    ⟨_, rfl⟩ := step_next_cases h
  · exact linesFollow_of_eq rfl rfl rfl -- waiting
  · exact linesFollow_of_eq rfl rfl rfl -- a word refused
  · exact exec_linesFollow (s := { s with port := rest }) hexec -- a command executed
  · exact ⟨_, sendByte_hist _ s, sendByte_lines _ s⟩ -- Shift
  · exact ⟨[.irqMask false], rfl, rfl⟩ -- Unmask
  · exact ⟨[.settleBegin s.config.settle, .settleEnd], by simp, rfl⟩ -- Settle

/-- A run of one step more that ends in a next state begins with a step to one, for any machine. -/
theorem core_run_succ_next {M : Host.Core} {k : Nat} {s t : M.State} (h : M.run (k + 1) s = .next t) :
    ∃ u, M.step s = .next u ∧ M.run k u = .next t := by
  rw [Host.Core.run] at h
  cases hs : M.step s with
  | next u => rw [hs] at h; exact ⟨u, rfl, h⟩
  | fault r => rw [hs] at h; cases h
  | refused r => rw [hs] at h; cases h

/-- What relates the ends of every step, and of two runs in a row, relates the ends of every run. -/
theorem run_induction {R : State → State → Prop} (hrefl : ∀ s, R s s)
    (htrans : ∀ {s t u}, R s t → R t u → R s u) (hstep : ∀ {s t}, step s = .next t → R s t) {k : Nat} :
    ∀ {s t : State}, core.run k s = .next t → R s t := by
  induction k with
  | zero => intro s t h; cases h; exact hrefl s
  | succ k ih =>
    intro s t h
    obtain ⟨u, hs, hrun⟩ := core_run_succ_next (M := core) h
    exact htrans (hstep hs) (ih hrun)

theorem run_linesFollow {k : Nat} {s t : State} (h : core.run k s = .next t) : LinesFollow s t :=
  run_induction (fun _ => linesFollow_of_eq rfl rfl rfl) linesFollow_trans step_linesFollow h

/-! ### The lines after a transmission (R149) -/

/-- The last byte of a chain transmission is the low byte of channel 0 of the last frame (R86, R87). -/
theorem chainBytes_eq_append_last {s : State} (hn : 1 ≤ s.config.chainLength) :
    ∃ vs, chainBytes s = vs ++ [lowByte (bufRead s (12 * (s.config.chainLength - 1)))] := by
  obtain ⟨p, hp⟩ : ∃ p, 28 * s.config.chainLength = p + 1 := ⟨28 * s.config.chainLength - 1, by omega⟩
  have hframe : p / 28 = s.config.chainLength - 1 := by omega
  have hbyte : p % 28 = 5 + 2 * (11 - 0) := by omega
  have hlast : chainByte s p = lowByte (bufRead s (12 * (s.config.chainLength - 1))) := by
    rw [chainByte, hframe, hbyte, frameByte_low s _ (Nat.zero_le 11)]
    rfl
  exact ⟨(List.range p).map (chainByte s), by
    rw [chainBytes, hp, List.range_succ, List.map_append, List.map_singleton, hlast]⟩

/-- The lines stand where the last byte left them: the mask and the settle window move none. -/
theorem linesAfter_transmitEvents {s : State} {clkPin datPin : PinId} (hm : s.config.mode = .bitBang clkPin datPin)
    (hn : 1 ≤ s.config.chainLength) (l : Line × Line) :
    linesAfter l (transmitEvents s) =
      (.driven .high, .driven (levelOf ((bufRead s (12 * (s.config.chainLength - 1))).getLsbD 0))) := by
  obtain ⟨vs, hvs⟩ := chainBytes_eq_append_last (s := withCommandWord s) hn
  rw [transmitEvents, hm, hvs, List.flatMap_append, List.flatMap_singleton, linesAfter_append, ← List.cons_append,
    linesAfter_append, linesAfter_byteEvents_bitBang]
  have hbit : (lowByte (bufRead s (12 * (s.config.chainLength - 1)))).getLsbD 0 =
      (bufRead s (12 * (s.config.chainLength - 1))).getLsbD 0 := by
    simp [lowByte]
  rw [← hbit]
  rfl

/-- Settles O35: the lines follow the run's events, the last of which to move a line are those of the last byte. -/
theorem linesAfterBitBangTransmit : Obligations.LinesAfterBitBangTransmit := by
  intro s rest clkPin datPin hp hport ha hb hn hm
  obtain ⟨t, hrun, hhist, _⟩ := transmitSendsTheWholeChain s rest hp hport ha hb hn
  obtain ⟨es, hes, hlines⟩ := run_linesFollow hrun
  obtain rfl := List.append_cancel_left (hhist.symm.trans hes)
  rw [linesAfter_transmitEvents hm hn, Prod.mk.injEq] at hlines
  exact ⟨t, hrun, hlines.1.symm, hlines.2.symm⟩

/-! ### Two transmissions in a row (R152) -/

/-- The events of a TRANSMIT depend only on the configuration, the buffer and the correction registers (R133, R134). -/
theorem transmitEvents_congr {s t : State} (hc : t.config = s.config) (hb : t.buf = s.buf)
    (hcmd : buildCmd t.bcR t.bcG t.bcB = buildCmd s.bcR s.bcG s.bcB) : transmitEvents t = transmitEvents s := by
  have hbytes : chainBytes (withCommandWord t) = chainBytes (withCommandWord s) := by
    have hlen : (withCommandWord t).config = (withCommandWord s).config := hc
    rw [chainBytes, chainBytes, hlen]
    exact List.map_congr_left fun k _ => chainByte_congr (s := withCommandWord s) (t := withCommandWord t) hcmd hb k
  rw [transmitEvents, transmitEvents, hbytes, hc]

/-- Settles O36: the first transmission leaves what the second one's events depend on as it was. -/
theorem repeatedTransmitSendsTheSame : Obligations.RepeatedTransmitSendsTheSame := by
  intro s rest hp hport ha hb hn
  obtain ⟨t, hrun, hhist, hframe⟩ := transmitSendsTheWholeChain s _ hp hport ha hb hn
  have hc : t.config = s.config := by rw [hframe]
  obtain ⟨u, hrun', hhist', hframe'⟩ := transmitSendsTheWholeChain t rest (by rw [hframe]) (by rw [hframe])
    (by rw [hc]; exact ha) (by rw [hframe]; exact hb) (by rw [hc]; exact hn)
  have hsteps : transmitSteps t = transmitSteps s := by rw [transmitSteps, hc, transmitSteps]
  have hevents : transmitEvents t = transmitEvents s :=
    transmitEvents_congr hc (by rw [hframe]) (by rw [hframe])
  refine ⟨u, ?_, ?_, by rw [hframe'], by rw [hframe']⟩
  · rw [run_add hrun, ← hsteps, hrun']
  · rw [hhist', hhist, hevents, List.append_assoc]

end Sys2Proof.Machine
end

section
/-! PROOFS. The mask request and the latch discipline of the history (41_transmit.md R140, R142, R143). Outside a transmission
a step leaves both alone but for set-up events, which is said once and serves both. -/

namespace Sys2Proof.Machine

/-! ### What a step from `Idle` does to the mask and the history -/

theorem Phase.masked_of_not_busy {p : Phase} (h : p.busy = false) : p.masked = false := by
  cases p <;> simp at h ⊢

theorem Phase.latch_of_not_busy {p : Phase} (h : p.busy = false) : p.latch = .quiet := by
  cases p <;> simp at h ⊢

/-- `t` follows `s` outside a transmission: no mask is written, and the events appended may stand where no clock event
has stood since the last settle window. -/
def StaysQuiet (s t : State) : Prop :=
  t.phase.busy = false ∧ t.irqMaskReq = s.irqMaskReq ∧ t.config = s.config ∧
  ∃ es, t.hist = s.hist ++ es ∧ latchScan s.config.settle .quiet es = some .quiet

/-- An effect that emits nothing. -/
theorem staysQuiet_of_hist_eq {s t : State} (hp : t.phase.busy = false) (hm : t.irqMaskReq = s.irqMaskReq)
    (hc : t.config = s.config) (hh : t.hist = s.hist) : StaysQuiet s t :=
  ⟨hp, hm, hc, [], by simp [hh], rfl⟩

/-- BEGIN emits at most the one set-up event of its mode (R101). -/
theorem staysQuiet_begin {s : State} (hp : s.phase = .idle) :
    StaysQuiet s ((setUpLines s).markBegun.withBeginOk true) := by
  obtain ⟨c, d, _, _, _, _, e⟩ | ⟨_, _, e⟩ | ⟨_, e⟩ := setUpLines_cases s <;> rw [e]
  · exact ⟨by simp [hp], rfl, rfl, [.pinsDriven c d], rfl, rfl⟩
  · exact ⟨by simp [hp], rfl, rfl, [.busInit], rfl, rfl⟩
  · exact staysQuiet_of_hist_eq (by simp [hp]) rfl rfl rfl

/-- A command accepted in `Idle` starts a transmission or stays outside one. -/
theorem exec_start_or_staysQuiet {i : Instr} {s t : State} (hp : s.phase = .idle) (h : exec i s = .next t) :
    t = startTransmit s ∨ StaysQuiet s t := by
  obtain ⟨_, _, _, _, rfl⟩ | ⟨_, _, _, _, _, _, rfl⟩ | ⟨_, _, _, _, rfl⟩ | ⟨_, _, _, rfl⟩ | ⟨_, _, rfl⟩ | ⟨_, _, rfl⟩ |
    ⟨_, _, rfl⟩ | ⟨_, _, _, rfl⟩ := exec_next_cases h
  · rw [bufWrite_frame]; exact .inr (staysQuiet_of_hist_eq (by simp [hp]) rfl rfl rfl) -- SET_CHANNEL
  · rw [writePixel_frame]; exact .inr (staysQuiet_of_hist_eq (by simp [hp]) rfl rfl rfl) -- SET_PIXEL
  · exact .inr (staysQuiet_of_hist_eq (by simp [hp]) rfl rfl rfl) -- SET_BC
  · exact .inl rfl -- TRANSMIT, the Start
  · exact .inr (staysQuiet_begin hp) -- BEGIN with a buffer
  · exact .inr (staysQuiet_of_hist_eq (by simp [hp]) rfl rfl rfl) -- BEGIN without a buffer
  · exact .inr (staysQuiet_of_hist_eq rfl rfl rfl rfl) -- Fault(NoBuffer)
  · exact .inr (staysQuiet_of_hist_eq rfl rfl rfl rfl) -- Fault(NotBegun)

/-- The steps as the mask and the latch discipline see them: one outside a transmission, its Start, a byte, Unmask and
Settle (R135). -/
theorem step_transmission_cases {s t : State} (h : step s = .next t) :
    (s.phase = .idle ∧ StaysQuiet s t) ∨
    (s.phase = .idle ∧ ∃ rest, t = startTransmit { s with port := rest }) ∨
    (∃ n j v, s.phase = .shift n j ∧ t = (sendByte v s).goto (nextPhase s.config.chainLength n j)) ∨
    (s.phase = .unmask ∧ t = (setIrqMask false s).goto .settle) ∨
    (s.phase = .settle ∧ t = ((s.emit (.settleBegin s.config.settle)).emit .settleEnd).goto .idle) := by
  obtain ⟨hp, _, rfl⟩ | ⟨_, _, _, hp, _, _, rfl⟩ | ⟨_, rest, _, hp, _, _, hexec⟩ | ⟨n, j, hp, _, _, rfl⟩ | hunmask |
    hsettle := step_next_cases h
  · exact .inl ⟨hp, staysQuiet_of_hist_eq (by simp [hp]) rfl rfl rfl⟩
  · exact .inl ⟨hp, staysQuiet_of_hist_eq rfl rfl rfl rfl⟩
  · obtain rfl | hquiet := exec_start_or_staysQuiet (s := { s with port := rest }) hp hexec
    · exact .inr (.inl ⟨hp, rest, rfl⟩)
    · exact .inl ⟨hp, hquiet⟩
  · exact .inr (.inr (.inl ⟨n, j, _, hp, rfl⟩))
  · exact .inr (.inr (.inr (.inl hunmask)))
  · exact .inr (.inr (.inr (.inr hsettle)))

/-! ### The mask request (R140) -/

@[simp] theorem sendByte_irqMaskReq (v : Byte) (s : State) : (sendByte v s).irqMaskReq = s.irqMaskReq := by
  rw [sendByte_frame]

/-- Settles O45: Start asserts the request, Unmask releases it, and no other step writes it or crosses the section. -/
theorem maskRequestFollowsPhase : Obligations.MaskRequestFollowsPhase := by
  intro s t h hstep
  unfold MaskInv at h ⊢
  obtain ⟨hp, hquiet, hmask, _⟩ | ⟨_, _, rfl⟩ | ⟨n, j, _, hp, rfl⟩ | ⟨_, rfl⟩ | ⟨hp, rfl⟩ := step_transmission_cases hstep
  · rw [hmask, h, hp, Phase.masked_of_not_busy hquiet, Phase.masked_idle]
  · rfl
  · obtain ⟨_, hmasked, _⟩ := nextPhase_inside s.config.chainLength n j
    simpa [hp, hmasked] using h
  · rfl
  · simpa [hp] using h

/-! ### The latch discipline (R140, R142, R143) -/

/-- Settles O46: the events of each step lead from where the history stands to where the next phase says. -/
theorem stepKeepsLatchDiscipline : Obligations.StepKeepsLatchDiscipline := by
  intro s t h hstep
  obtain ⟨hp, hquiet, _, hc, es, hhist, hscan⟩ | ⟨hp, _, rfl⟩ | ⟨n, j, v, hp, rfl⟩ | ⟨hp, rfl⟩ | ⟨hp, rfl⟩ :=
    step_transmission_cases hstep
  · exact h.append hc hhist (by rw [hp, Phase.latch_of_not_busy hquiet]; exact hscan)
  · exact h.append (es := [.irqMask true]) rfl rfl (by rw [hp]; rfl)
  · obtain ⟨_, _, hlatch⟩ := nextPhase_inside s.config.chainLength n j
    exact h.append (es := byteEvents s.config.mode v) (by simp) (by simp [sendByte_hist])
      (by simp [hp, hlatch, latchScan_byteEvents])
  · exact h.append (es := [.irqMask false]) rfl rfl (by rw [hp]; rfl)
  · exact h.append (es := [.settleBegin s.config.settle, .settleEnd]) rfl (by simp)
      (by simp [hp, latchScan, latchStep])

/-! ### The settle window between two transmissions (R143) -/

/-- A history that keeps the discipline keeps it at its first event. -/
theorem latchScan_cons {settle : Nat} {l l' : Latch} {e : Event} {es : List Event}
    (h : latchScan settle l (e :: es) = some l') :
    ∃ m, latchStep settle l e = some m ∧ latchScan settle m es = some l' := by
  rw [latchScan] at h
  split at h
  · exact ⟨_, ‹_›, h⟩
  · cases h

/-- A history that keeps the discipline keeps it at each of its events. -/
theorem latchScan_append_cons {settle : Nat} {l l' : Latch} {a b : List Event} {e : Event}
    (h : latchScan settle l (a ++ e :: b) = some l') :
    ∃ m m', latchScan settle l a = some m ∧ latchStep settle m e = some m' ∧ latchScan settle m' b = some l' := by
  rw [latchScan_append] at h
  obtain ⟨m, ha, hb⟩ := Option.bind_eq_some_iff.mp h
  obtain ⟨m', he, hb⟩ := latchScan_cons hb
  exact ⟨m, m', ha, he, hb⟩

/-- A clock event stands only inside the masked section (R140). -/
theorem latchStep_of_clocks {settle : Nat} {l l' : Latch} {e : Event} (he : e.clocks = true)
    (h : latchStep settle l e = some l') : l = .clocking ∧ l' = .clocking := by
  cases e <;> cases he
  · cases l <;> cases h -- `Clk`
    exact ⟨rfl, rfl⟩
  · cases l <;> cases h -- `ByteXfer`
    exact ⟨rfl, rfl⟩

/-- The release of the mask ends the masked section and leaves a settle window owed (R141, R142). -/
theorem latchStep_of_release {settle : Nat} {l l' : Latch} (h : latchStep settle l (.irqMask false) = some l') :
    l' = .owed := by
  cases l <;> cases h
  rfl

/-- Where a settle window is owed, the next event can only be its beginning (R142). -/
theorem latchStep_owed {settle : Nat} {l : Latch} {e : Event} (h : latchStep settle .owed e = some l) :
    e = .settleBegin settle ∧ l = .settling := by
  cases e <;> simp [latchStep] at h
  exact ⟨congrArg _ h.1, h.2.symm⟩

/-- Inside a settle window the next event can only be its end (R142). -/
theorem latchStep_settling {settle : Nat} {l : Latch} {e : Event} (h : latchStep settle .settling e = some l) :
    e = .settleEnd := by
  cases e <;> simp [latchStep] at h
  rfl

/-- A history that comes from an owed settle window back to clock events begins with that window. -/
theorem window_of_latchScan_owed {settle : Nat} {es : List Event} (h : latchScan settle .owed es = some .clocking) :
    ∃ y, es = [.settleBegin settle, .settleEnd] ++ y := by
  cases es with
  | nil => cases h
  | cons e es =>
    obtain ⟨_, he, h⟩ := latchScan_cons h
    obtain ⟨rfl, rfl⟩ := latchStep_owed he
    cases es with
    | nil => cases h
    | cons e es =>
      obtain ⟨_, he, _⟩ := latchScan_cons h
      rw [latchStep_settling he]
      exact ⟨es, rfl⟩

/-- Settles O47: the release leaves a window owed, and the later clock event stands where none is. -/
theorem settleWindowBetweenTransmissions : Obligations.SettleWindowBetweenTransmissions := by
  intro s before between after e e' hinv hhist he he' hmem
  obtain ⟨x, y, rfl⟩ := List.append_of_mem hmem
  unfold LatchInv at hinv
  rw [hhist] at hinv
  obtain ⟨l, _, hupTo, hstep', _⟩ := latchScan_append_cons hinv
  obtain ⟨rfl, _⟩ := latchStep_of_clocks he' hstep'
  obtain ⟨_, _, _, _, hbetween⟩ := latchScan_append_cons hupTo
  obtain ⟨_, _, _, hrelease, hy⟩ := latchScan_append_cons hbetween
  rw [latchStep_of_release hrelease] at hy
  obtain ⟨y', rfl⟩ := window_of_latchScan_owed hy
  exact ⟨x ++ [.irqMask false], y', by simp⟩

end Sys2Proof.Machine
end

section
/-! PROOFS. Progress of a sound block (41_transmit.md R154): it always has its next step, and a transmission under way comes
back to `Idle` when its bytes that are left, the release of the mask and the settle window are done. -/

namespace Sys2Proof.Machine

/-- An idle block always has its next step: no command and no refused word leaves it without one (R70, R74). -/
theorem step_total_of_idle {s : State} (hp : s.phase = .idle) : ∃ t, step s = .next t := by
  cases hport : s.port with
  | nil => exact ⟨s, step_idle_nil hp hport⟩
  | cons w rest =>
    cases hdec : decode w with
    | command i =>
      obtain ⟨t, ht⟩ := exec_total i { s with port := rest }
      exact ⟨t, (step_of_command hp hport hdec).trans ht⟩
    | refuse r => exact ⟨_, step_of_refusal hp hport hdec⟩

/-- Settles O48, by the phase: a frame that a sound block is to send exists. -/
theorem healthyBlockAlwaysSteps : Obligations.HealthyBlockAlwaysSteps := by
  intro s h hfaulted hrefused
  obtain ⟨hbusy, hframe⟩ := h.phase
  cases hp : s.phase with
  | idle => exact step_total_of_idle hp
  | shift n j =>
    obtain ⟨ha, _⟩ := hbusy (by simp [hp])
    exact ⟨_, step_shift hp ha (hframe n j hp)⟩
  | unmask => exact ⟨_, step_unmask hp⟩
  | settle => exact ⟨_, step_settle hp⟩
  | faulted => exact absurd hp hfaulted
  | refused => exact absurd hp hrefused

/-- Byte `j` of an existing frame `n` is byte `28n + j` of the chain (R87). -/
theorem phaseAt_of_frame {chips n : Nat} (j : Fin 28) (hn : n < chips) : phaseAt chips (28 * n + j) = .shift n j := by
  have hdiv : (28 * n + j.val) / 28 = n := by omega
  have hmod : (28 * n + j.val) % 28 = j.val := by omega
  rw [phaseAt, if_pos (by omega)]
  simp only [hdiv, hmod]

theorem phaseAt_end (chips : Nat) : phaseAt chips (28 * chips) = .unmask := by
  rw [phaseAt, if_neg (by omega)]

/-- From byte `28n + j` the bytes that are left, Unmask and Settle lead to `Idle` (R135). -/
theorem run_shift_to_idle {s : State} {n : Nat} {j : Fin 28} (hp : s.phase = .shift n j)
    (ha : s.config.allocOk = true) (hn : n < s.config.chainLength) :
    ∃ t : State, core.run (28 * s.config.chainLength - (28 * n + j) + 2) s = .next t ∧ t.phase = .idle := by
  have hleft : 28 * n + j.val + (28 * s.config.chainLength - (28 * n + j)) = 28 * s.config.chainLength := by omega
  obtain ⟨u, hrun, hphase, _⟩ := run_shift ha (hp.trans (phaseAt_of_frame j hn).symm) hleft.le
  rw [hleft, phaseAt_end] at hphase
  exact ⟨_, (run_add hrun).trans (run_unmask_settle hphase), rfl⟩

/-- Settles O49, by the phase: at most `28N` bytes, Unmask and Settle are left. -/
theorem busyBlockReturnsToIdle : Obligations.BusyBlockReturnsToIdle := by
  intro s h hb
  obtain ⟨hbusy, hframe⟩ := h.phase
  obtain ⟨ha, _⟩ := hbusy hb
  obtain ⟨n, j, hp⟩ | hp | hp := Phase.busy_cases hb
  · obtain ⟨t, hrun, hidle⟩ := run_shift_to_idle hp ha (hframe n j hp)
    exact ⟨_, t, by unfold transmitSteps; omega, hrun, hidle⟩
  · exact ⟨2, _, by unfold transmitSteps; omega, run_unmask_settle hp, rfl⟩
  · exact ⟨1, _, by unfold transmitSteps; omega, run_succ 0 (step_settle hp), rfl⟩

end Sys2Proof.Machine
end

section
/-! PROOFS. The boundary slot never reaches the wire (41_transmit.md R150, 10_state.md R25): no effect of a step reads it, so a
step taken with another value in it does the same but for the slot itself. -/

namespace Sys2Proof.Machine

/-- With `v` in the boundary slot `f` has the same outcome, and the same next state but for the boundary slot. -/
def SpareHidden (f : State → Host.Outcome State Fault Refusal) (v : Value) (s : State) : Prop :=
  ∃ v', f { s with spare := v } = mapNext (fun t => { t with spare := v' }) (f s)

/-- What does the same as `g` in both states hides the boundary slot where `g` does. -/
theorem SpareHidden.of_eq {f g : State → Host.Outcome State Fault Refusal} {v : Value} {s : State}
    (h : SpareHidden g v s) (hs : f s = g s) (hv : f { s with spare := v } = g { s with spare := v }) :
    SpareHidden f v s := by
  obtain ⟨v', h⟩ := h
  exact ⟨v', by rw [hs, hv, h]⟩

/-! ### Commands -/

theorem setUpLines_withSpare (v : Value) (s : State) :
    setUpLines { s with spare := v } = { setUpLines s with spare := v } := by
  cases hm : s.config.mode with
  | bitBang clkPin datPin => by_cases hc : s.clk = .undriven <;> simp [setUpLines, hm, hc, drivePins, State.emit]
  | hwSerial => by_cases hb : s.begun = true <;> simp [setUpLines, hm, hb, State.emit]

/-- A write to the boundary slot makes the two states equal; any other leaves them as far apart as they were. -/
theorem bufWrite_withSpare (i : Nat) (w v : Value) (s : State) :
    ∃ v', bufWrite i w { s with spare := v } = { bufWrite i w s with spare := v' } := by
  obtain ⟨hi, h⟩ | ⟨hi, h⟩ | ⟨hi, h⟩ := bufWrite_cases i w s <;> rw [h]
  · exact ⟨v, bufWrite_beyond hi⟩
  · exact ⟨w, bufWrite_boundary hi⟩
  · exact ⟨v, bufWrite_below hi⟩

theorem writePixel_withSpare (p : BitVec 16) (r g b v : Value) (s : State) :
    ∃ v', writePixel p r g b { s with spare := v } = { writePixel p r g b s with spare := v' } := by
  unfold writePixel
  obtain ⟨v₀, h₀⟩ := bufWrite_withSpare (pixelSlot p 0) r v s
  obtain ⟨v₁, h₁⟩ := bufWrite_withSpare (pixelSlot p 1) g v₀ (bufWrite (pixelSlot p 0) r s)
  rw [h₀, h₁]
  exact bufWrite_withSpare _ _ _ _

/-- A writing command whose effect differs only in the boundary slot does so too, also where it faults. -/
theorem withBuffer_spareHidden (op : Opcode) {effect : State → State} {v : Value} {s : State}
    (h : ∃ v', effect { s with spare := v } = { effect s with spare := v' }) : SpareHidden (withBuffer op effect) v s := by
  cases ha : s.config.allocOk with
  | true =>
    obtain ⟨v', h⟩ := h
    exact .of_eq (g := fun s => .next (effect s)) ⟨v', congrArg _ h⟩ (withBuffer_of_buffer ha) (withBuffer_of_buffer ha)
  | false =>
    exact .of_eq (g := fun s => .next (raiseFault .noBuffer op s)) ⟨v, rfl⟩ (withBuffer_of_no_buffer ha)
      (withBuffer_of_no_buffer ha)

/-- A command executed with another value in the boundary slot does the same but for the slot. -/
theorem exec_spareHidden (i : Instr) (v : Value) (s : State) : SpareHidden (exec i) v s := by
  cases i with
  | begin =>
    refine ⟨v, ?_⟩
    simp only [exec, execBegin, setUpLines_withSpare]
    split <;> rfl
  | setChannel idx w => exact withBuffer_spareHidden _ (bufWrite_withSpare _ _ v s)
  | setPixel p r g b => exact withBuffer_spareHidden _ (writePixel_withSpare _ _ _ _ v s)
  | setBc r g b => exact ⟨v, rfl⟩
  | transmit =>
    refine ⟨v, ?_⟩
    simp only [exec, execTransmit]
    split
    · split <;> rfl
    · rfl

/-! ### Steps -/

theorem sendByte_withSpare (b : Byte) (v : Value) (s : State) :
    sendByte b { s with spare := v } = { sendByte b s with spare := v } := by
  rw [sendByte_eq, sendByte_eq b s]

/-- The byte sent is read from the snapshot and the buffer, never from the boundary slot (R134, R150). -/
theorem shiftStep_spareHidden (n : Nat) (j : Fin 28) (v : Value) (s : State) : SpareHidden (shiftStep n j) v s := by
  refine ⟨v, ?_⟩
  unfold shiftStep
  split
  · exact congrArg (fun u : State => Host.Outcome.next (u.goto _)) (sendByte_withSpare _ v s)
  · rfl

theorem step_of_shift {s : State} {n : Nat} {j : Fin 28} (hp : s.phase = .shift n j) : step s = shiftStep n j s := by
  simp [step, nextAction, hp]

/-- An idle block takes the same word of the host, whatever the boundary slot holds. -/
theorem step_spareHidden_of_idle {s : State} (v : Value) (hp : s.phase = .idle) : SpareHidden step v s := by
  generalize hport : s.port = ws
  cases ws with
  | nil => exact .of_eq (g := .next) ⟨v, rfl⟩ (step_idle_nil hp hport) (step_idle_nil hp hport)
  | cons w rest =>
    cases hdec : decode w with
    | command i =>
      exact .of_eq (g := fun s => exec i { s with port := rest }) (exec_spareHidden i v { s with port := rest })
        (step_of_command hp hport hdec) (step_of_command hp hport hdec)
    | refuse r =>
      exact .of_eq (g := fun s => .next (refuseCommand { s with port := rest })) ⟨v, rfl⟩
        (step_of_refusal hp hport hdec) (step_of_refusal hp hport hdec)

/-- A step hides the boundary slot in every phase: a command may write it, no other step touches it, and none reads it. -/
theorem step_spareHidden (v : Value) (s : State) : SpareHidden step v s := by
  cases hp : s.phase with
  | idle => exact step_spareHidden_of_idle v hp
  | shift n j => exact (shiftStep_spareHidden n j v s).of_eq (step_of_shift hp) (step_of_shift hp)
  | unmask => exact .of_eq (g := unmaskStep) ⟨v, rfl⟩ (step_unmask hp) (step_unmask hp)
  | settle => exact .of_eq (g := settleStep) ⟨v, rfl⟩ (step_settle hp) (step_settle hp)
  | faulted => exact .of_eq (g := fun _ => .fault .haltedByFault) ⟨v, rfl⟩ (step_faulted hp) (step_faulted hp)
  | refused => exact .of_eq (g := fun _ => .refused .haltedByRefusal) ⟨v, rfl⟩ (step_refused hp) (step_refused hp)

/-- Settles O53: it says that every step hides the boundary slot. -/
theorem spareNeverReachesTheWire : Obligations.SpareNeverReachesTheWire := fun s v => step_spareHidden v s

end Sys2Proof.Machine
end

section
/-! PROOFS. Faults and refusals (60_exceptions.md R171 to R176): which command raises which cause, that a fault entry writes the
fault registers and the phase alone, and that a block that has stopped takes no step. -/

namespace Sys2Proof.Machine

/-! ### What a command does to the fault registers -/

/-- A command leaves the recorded fault alone and does not enter `Faulted`, or it is a fault entry with its own opcode: without
a buffer as NoBuffer, with one as NotBegun, which is TRANSMIT's before a successful BEGIN (R171 to R173). -/
theorem exec_fault_cases {i : Instr} {s t : State} (h : exec i s = .next t) :
    (t.fault = s.fault ∧ (t.phase = .faulted → s.phase = .faulted)) ∨
    (s.config.allocOk = false ∧ t = raiseFault .noBuffer i.opcode s) ∨
    (i = .transmit ∧ s.config.allocOk = true ∧ s.begun = false ∧ t = raiseFault .notBegun i.opcode s) := by
  obtain ⟨_, _, _, _, rfl⟩ | ⟨_, _, _, _, _, _, rfl⟩ | ⟨_, _, _, _, rfl⟩ | ⟨_, _, _, rfl⟩ | ⟨_, _, rfl⟩ | ⟨_, _, rfl⟩ |
    ⟨_, ha, rfl⟩ | hbegun := exec_next_cases h
  · rw [bufWrite_frame]; exact .inl ⟨rfl, id⟩ -- SET_CHANNEL
  · rw [writePixel_frame]; exact .inl ⟨rfl, id⟩ -- SET_PIXEL
  · exact .inl ⟨rfl, id⟩ -- SET_BC
  · exact .inl ⟨rfl, by simp [startTransmit]⟩ -- TRANSMIT, the Start
  · rw [setUpLines_frame]; exact .inl ⟨rfl, id⟩ -- BEGIN with a buffer
  · exact .inl ⟨rfl, id⟩ -- BEGIN without a buffer
  · exact .inr (.inl ⟨ha, rfl⟩) -- Fault(NoBuffer)
  · exact .inr (.inr hbegun) -- Fault(NotBegun)

/-! ### The two causes (R172, R173) -/

/-- Settles O39: the commands that need the buffer test for it first, and with one the only fault entry is NotBegun. -/
theorem noBufferRaisedExactlyWithoutBuffer : Obligations.NoBufferRaisedExactlyWithoutBuffer := by
  refine ⟨rfl, fun s ha => ⟨fun _ _ => withBuffer_of_no_buffer ha, fun _ _ _ _ => withBuffer_of_no_buffer ha,
    exec_transmit_of_no_buffer ha, exec_begin_of_no_buffer ha, fun _ _ _ => rfl⟩, fun i s t ha h hf => ?_⟩
  obtain ⟨hkept, _⟩ | ⟨hno, _⟩ | ⟨_, _, _, rfl⟩ := exec_fault_cases h
  · exact hkept ▸ hf -- the fault recorded before
  · simp [ha] at hno -- Fault(NoBuffer) needs a block without a buffer
  · simp at hf -- Fault(NotBegun) records another cause

/-- Settles O40: a command that newly records NotBegun is the fault entry of TRANSMIT's second check. -/
theorem notBegunRaisedOnlyByTransmit : Obligations.NotBegunRaisedOnlyByTransmit := by
  refine ⟨rfl, fun s => exec_transmit_of_not_begun, fun i s t h hf hnew => ?_⟩
  obtain ⟨hkept, _⟩ | ⟨_, rfl⟩ | ⟨hi, ha, hb, _⟩ := exec_fault_cases h
  · exact absurd (hkept ▸ hf) hnew -- the fault recorded before
  · simp at hf -- Fault(NoBuffer) records another cause
  · exact ⟨hi, ha, hb⟩ -- Fault(NotBegun)

/-! ### What stops the block (R171, R175, R176) -/

theorem step_ne_next_of_stopped {s t : State} (h : s.phase = .faulted ∨ s.phase = .refused) : step s ≠ .next t := by
  obtain ⟨_, hstopped, _⟩ := commandsAcceptedOnlyWhenIdle
  exact hstopped s t h

/-- Settles O41: a command enters `Faulted` only by a fault entry. -/
theorem faultsArePrecise : Obligations.FaultsArePrecise := by
  refine ⟨fun i s t h hs ht => ?_, fun s t hp => step_ne_next_of_stopped (.inl hp)⟩
  obtain ⟨_, hphase⟩ | ⟨_, rfl⟩ | ⟨_, _, _, rfl⟩ := exec_fault_cases h
  · exact absurd (hphase ht) hs -- no fault entry
  · exact ⟨rfl, by simp⟩ -- Fault(NoBuffer)
  · exact ⟨rfl, by simp⟩ -- Fault(NotBegun)

/-- Settles O9: an idle step that takes such a word is a refusal, which writes `refused` and the phase. -/
theorem undecodableWordIsRefused : Obligations.UndecodableWordIsRefused :=
  ⟨fun _ _ _ _ => step_of_refusal, fun _ _ hp => step_ne_next_of_stopped (.inr hp)⟩

end Sys2Proof.Machine
end

section
/-! PROOFS. Reset (00_scope.md R7, 70_reset_and_hazards.md R200): which configurations it refuses, the values it leaves, and
that they meet the invariant of a sound state. -/

namespace Sys2Proof.Machine

/-! ### What reset accepts (R7) -/

theorem wellFormed_iff (c : Configuration) : c.wellFormed = true ↔ 1 ≤ c.chainLength ∧ c.chainLength ≤ Config.nMax := by
  simp [Configuration.wellFormed]

theorem resetWith_eq_some_iff {c : Configuration} {d : ResetDraws} {s : State} :
    State.resetWith c d = some s ↔ c.wellFormed = true ∧ State.construct c d = s := by
  simp [State.resetWith]

theorem resetWith_eq_none_iff {c : Configuration} {d : ResetDraws} :
    State.resetWith c d = none ↔ ¬ c.wellFormed = true := by
  simp [State.resetWith]

theorem resetConfiguration_wellFormed : resetConfiguration.wellFormed = true :=
  (wellFormed_iff _).mpr ⟨Nat.le_refl 1, Nat.le_add_left 1 Config.nMaxAboveOne⟩

/-! ### The values reset leaves (R200) -/

/-- The buffer lists no slot, so each reads as 0 (R23). -/
theorem bufRead_construct (c : Configuration) (d : ResetDraws) (i : Nat) : bufRead (State.construct c d) i = 0#16 := rfl

/-- Settles O42: reset refuses exactly the ill-formed configurations, and accepting one it constructs the state of the table. -/
theorem resetLeavesTableValues : Obligations.ResetLeavesTableValues := by
  refine fun c d => ⟨fun hbad => ?_, fun hlow hhigh => ?_⟩
  · rw [resetWith_eq_none_iff, wellFormed_iff]
    omega
  · have hreset : State.resetWith c d = some (State.construct c d) :=
      resetWith_eq_some_iff.mpr ⟨(wellFormed_iff c).mpr ⟨hlow, hhigh⟩, rfl⟩
    exact ⟨State.construct c d, hreset, rfl, bufRead_construct c d, rfl, rfl, rfl, rfl, rfl, rfl, rfl, rfl, rfl, rfl, rfl,
      rfl, rfl, rfl, rfl, rfl⟩

/-! ### The invariant at reset -/

/-- No event has moved a line from `Undriven`, and BEGIN has not driven them (R36, R37). -/
theorem linesInv_construct (c : Configuration) (d : ResetDraws) : LinesInv (State.construct c d) := by
  obtain ⟨_, mode, _⟩ := c
  cases mode with
  | bitBang _ _ => exact ⟨rfl, iff_of_true rfl rfl, iff_of_true rfl rfl⟩
  | hwSerial => exact ⟨rfl, rfl, rfl⟩

/-- The block reset constructs is idle, with an empty buffer and an empty history. -/
theorem inv_construct {c : Configuration} (hc : c.wellFormed = true) (d : ResetDraws) : Inv (State.construct c d) where
  config := hc
  buffer := ⟨rfl, rfl, fun _ => ⟨rfl, rfl, rfl⟩⟩
  result := rfl
  lines := linesInv_construct c d
  phase := phaseInv_of_not_busy rfl
  mask := rfl
  fault := ⟨nofun, rfl⟩
  refused := iff_of_false nofun nofun
  latch := rfl

/-- Settles O43: each of these states is constructed from a configuration that reset accepts. -/
theorem invariantAtReset : Obligations.InvariantAtReset := by
  refine ⟨inv_construct resetConfiguration_wellFormed resetDraws, fun c d s h => ?_⟩
  obtain ⟨hc, rfl⟩ := resetWith_eq_some_iff.mp h
  exact inv_construct hc d

end Sys2Proof.Machine
end
